-- ==== Sys2Proof/Word.lean ====
section
/-! DEFINITION. The word types of the block and nothing else (spec/00_scope.md R12, R13; spec/30_encoding.md R80). -/

namespace Sys2Proof

/-- Eight bits: a command word, a sensor register address, a sensor byte, a transport status, a `Diag` field. -/
abbrev Byte := BitVec 8

/-- Sixteen bits, `RAW_W` of R12: a raw channel value, the operand `cmd_data`, the value of a `Done`. -/
abbrev Half := BitVec 16

/-- Forty bits, `NORM_W` of R12: a normalized value in UQ24.16; `n` stands for the number `n / 2^16`. -/
abbrev UQ := BitVec 40

end Sys2Proof
end

