-- ==== Sys2Proof/Syntax.lean ====
section
/-! DEFINITION. The host commands as data (spec/30_encoding.md R80, R81), the fields of a command word, and the
abstract form of the two pseudo-instructions and of a line of a command program (R91, R92). -/

namespace Sys2Proof

/-- The four channels, in the order of the API list (R81). -/
inductive Channel where
  | red
  | green
  | blue
  | clear
deriving DecidableEq, Repr

/-- One constructor per row of spec/opcode_table.json (R81). Only the handle loads read `cmd_data` (R80), so only
they carry an operand. -/
inductive Instr where
  /-- `INIT`, 0x01 (R110). -/
  | init
  /-- `GETRGB`, 0x02 (R150). -/
  | getrgb
  /-- `DETECT`, 0x03 (R160). -/
  | detect
  /-- `GETRAW.R`, 0x04 (R131). -/
  | getrawR
  /-- `GETRAW.G`, 0x05 (R132). -/
  | getrawG
  /-- `GETRAW.B`, 0x06 (R133). -/
  | getrawB
  /-- `GETRAW.C`, 0x07 (R134). -/
  | getrawC
  /-- `GETRAWC.R`, 0x14 (R135). -/
  | getrawcR
  /-- `GETRAWC.G`, 0x15 (R136). -/
  | getrawcG
  /-- `GETRAWC.B`, 0x16 (R137). -/
  | getrawcB
  /-- `GETRAWC.C`, 0x17 (R138). -/
  | getrawcC
  /-- `SETRAW.R #n`, 0x08 (R180). -/
  | setrawR (n : Half)
  /-- `SETRAW.G #n`, 0x09 (R181). -/
  | setrawG (n : Half)
  /-- `SETRAW.B #n`, 0x0A (R182). -/
  | setrawB (n : Half)
  /-- `SETRAW.C #n`, 0x0B (R183). -/
  | setrawC (n : Half)
deriving DecidableEq, Repr

/-- The four fields of a command word (R80). -/
structure CmdFields where
  /-- `ZERO`, bits 7:5. -/
  zero : BitVec 3
  /-- `CAP`, bit 4. -/
  cap : Bool
  /-- `GRP`, bits 3:2. -/
  grp : BitVec 2
  /-- `SEL`, bits 1:0. -/
  sel : BitVec 2
deriving DecidableEq, Repr

/-- The fields of each command's word, as R80 composes them: group 00 the operations, 01 the raw reads (`CAP` set
on the capturing ones), 10 the handle loads. -/
def Instr.fields : Instr → CmdFields
  | .init => ⟨0#3, false, 0#2, 1#2⟩
  | .getrgb => ⟨0#3, false, 0#2, 2#2⟩
  | .detect => ⟨0#3, false, 0#2, 3#2⟩
  | .getrawR => ⟨0#3, false, 1#2, 0#2⟩
  | .getrawG => ⟨0#3, false, 1#2, 1#2⟩
  | .getrawB => ⟨0#3, false, 1#2, 2#2⟩
  | .getrawC => ⟨0#3, false, 1#2, 3#2⟩
  | .getrawcR => ⟨0#3, true, 1#2, 0#2⟩
  | .getrawcG => ⟨0#3, true, 1#2, 1#2⟩
  | .getrawcB => ⟨0#3, true, 1#2, 2#2⟩
  | .getrawcC => ⟨0#3, true, 1#2, 3#2⟩
  | .setrawR _ => ⟨0#3, false, 2#2, 0#2⟩
  | .setrawG _ => ⟨0#3, false, 2#2, 1#2⟩
  | .setrawB _ => ⟨0#3, false, 2#2, 2#2⟩
  | .setrawC _ => ⟨0#3, false, 2#2, 3#2⟩

/-- One line of a command program (R91, R92): a plain command, a handle load with its operand as the number that
stands after `#`, or a pseudo-instruction. -/
inductive AsmLine where
  /-- A command without an operand; the instruction must be none of the handle loads. -/
  | plain (i : Instr)
  /-- `SETRAW.x #n`. -/
  | load1 (ch : Channel) (n : Nat)
  /-- `POLL` (R92). -/
  | poll
  /-- `LOAD #r, #g, #b, #c` (R92). -/
  | load (r g b c : Nat)
deriving DecidableEq, Repr

end Sys2Proof
end

