-- ==== Sys2Proof/WellFormed.lean ====
section
/-! DEFINITION. Which command words, instructions and program lines are legal (spec/30_encoding.md R84, R85, R91). -/

namespace Sys2Proof

/-- Bits 7:5 are 000 (R80, R85). -/
def CmdFields.zeroOk (f : CmdFields) : Bool := f.zero == 0#3

/-- `CAP = 1` only with `GRP = 01` (R84, R85). -/
def CmdFields.capOk (f : CmdFields) : Bool := !f.cap || f.grp == 1#2

/-- `GRP = 11` is reserved (R80, R85). -/
def CmdFields.grpOk (f : CmdFields) : Bool := f.grp != 3#2

/-- In group 00, `SEL = 00` is reserved (R80, R85). -/
def CmdFields.selOk (f : CmdFields) : Bool := !(f.grp == 0#2 && f.sel == 0#2)

/-- A legal command word: none of the cases R85 lists as illegal. -/
def CmdFields.wellFormed (f : CmdFields) : Bool := f.zeroOk && f.capOk && f.grpOk && f.selOk

/-- An instruction is well formed when its word is legal. Its operand is 16 bits by its type. -/
def Instr.wellFormed (i : Instr) : Bool := i.fields.wellFormed

/-- An operand number of R91: 0 to 65535. -/
def operandOk (n : Nat) : Bool := n ≤ 65535

/-- Handle loads are the commands that take an operand (R80). -/
def Instr.takesOperand : Instr → Bool
  | .setrawR _ | .setrawG _ | .setrawB _ | .setrawC _ => true
  | .init | .getrgb | .detect | .getrawR | .getrawG | .getrawB | .getrawC
  | .getrawcR | .getrawcG | .getrawcB | .getrawcC => false

/-- A legal line: an operand exactly where R91 gives one, each in range. -/
def AsmLine.wellFormed : AsmLine → Bool
  | .plain i => !i.takesOperand
  | .load1 _ n => operandOk n
  | .poll => true
  | .load r g b c => operandOk r && operandOk g && operandOk b && operandOk c

end Sys2Proof
end

