-- ==== Sys2Proof/Decode.lean ====
section
/-! DEFINITION. The decoder, total on every command word and operand and refusing by name, and after it the encoder
(spec/30_encoding.md R80 to R85, R91, R92). -/

namespace Sys2Proof

/-- Why a command word is illegal: the four cases of R85. -/
inductive DecodeError where
  /-- `cmd[7:5] != 000`. -/
  | zeroBitsSet
  /-- `CAP = 1` with `GRP != 01`. -/
  | captureOutsideRawRead
  /-- `GRP = 11`. -/
  | reservedGroup
  /-- 0x00: group 00 with `SEL = 00`. -/
  | reservedOperation
deriving DecidableEq, Repr

/-- The four fields of a command word (R80). -/
def splitFields (cmd : Byte) : CmdFields where
  zero := cmd.extractLsb' 5 3
  cap := cmd.getLsbD 4
  grp := cmd.extractLsb' 2 2
  sel := cmd.extractLsb' 0 2

/-- The channel a `SEL` field names in groups 01 and 10 (R80). -/
def channelOfSel (sel : BitVec 2) : Channel :=
  if sel = 0#2 then .red
  else if sel = 1#2 then .green
  else if sel = 2#2 then .blue
  else .clear

/-- Group 00, `SEL` not 00 (R80). -/
def operationOf (sel : BitVec 2) : Instr :=
  if sel = 1#2 then .init
  else if sel = 2#2 then .getrgb
  else .detect

/-- Group 01 (R80, R84). -/
def rawReadOf (cap : Bool) : Channel → Instr
  | .red => if cap then .getrawcR else .getrawR
  | .green => if cap then .getrawcG else .getrawG
  | .blue => if cap then .getrawcB else .getrawB
  | .clear => if cap then .getrawcC else .getrawC

/-- Group 10 (R80). -/
def handleLoadOf (data : Half) : Channel → Instr
  | .red => .setrawR data
  | .green => .setrawG data
  | .blue => .setrawB data
  | .clear => .setrawC data

/-- The instruction of a command word and its operand, or the reason there is none (R82, R85). `data` is looked at
by the handle loads only. -/
def decode (cmd : Byte) (data : Half) : Except DecodeError Instr :=
  let f := splitFields cmd
  if !f.zeroOk then .error .zeroBitsSet
  else if !f.capOk then .error .captureOutsideRawRead
  else if !f.grpOk then .error .reservedGroup
  else if !f.selOk then .error .reservedOperation
  else if f.grp = 0#2 then .ok (operationOf f.sel)
  else if f.grp = 1#2 then .ok (rawReadOf f.cap (channelOfSel f.sel))
  else .ok (handleLoadOf data (channelOfSel f.sel))

/-- The host's view of the decoder: bits 7:0 of `w` are the command word and bits 23:8 the operand `cmd_data`.
DESIGN CHOICE: `cmd_data` is a second port and the table gives it no bits (log entry 13). -/
def decodeTableWord (nbits w : Nat) : Option Instr :=
  let v := w % 2 ^ nbits
  match decode (BitVec.ofNat 8 v) (BitVec.ofNat 16 (v >>> 8)) with
  | .ok i => some i
  | .error _ => none

/-- The command word of each instruction: the table of R81. -/
def opcode : Instr → Byte
  | .init => 0x01#8
  | .getrgb => 0x02#8
  | .detect => 0x03#8
  | .getrawR => 0x04#8
  | .getrawG => 0x05#8
  | .getrawB => 0x06#8
  | .getrawC => 0x07#8
  | .getrawcR => 0x14#8
  | .getrawcG => 0x15#8
  | .getrawcB => 0x16#8
  | .getrawcC => 0x17#8
  | .setrawR _ => 0x08#8
  | .setrawG _ => 0x09#8
  | .setrawB _ => 0x0A#8
  | .setrawC _ => 0x0B#8

/-- The operand word: the value of a handle load, 0x0000 for every other command (R91). -/
def operandWord : Instr → Half
  | .setrawR n | .setrawG n | .setrawB n | .setrawC n => n
  | .init | .getrgb | .detect | .getrawR | .getrawG | .getrawB | .getrawC
  | .getrawcR | .getrawcG | .getrawcB | .getrawcC => 0x0000#16

/-- An instruction as the pair (`cmd`, `cmd_data`) the host puts on the command port. -/
def encode (i : Instr) : Byte × Half := (opcode i, operandWord i)

/-- The commands a program line stands for: itself, or the expansion of a pseudo-instruction in the order of R92. -/
def expandLine : AsmLine → List Instr
  | .plain i => [i]
  | .load1 ch n => [handleLoadOf (BitVec.ofNat 16 n) ch]
  | .poll => [.getrawcR, .getrawcG, .getrawcB, .getrawcC, .getrgb, .detect]
  | .load r g b c =>
    [.setrawR (BitVec.ofNat 16 r), .setrawG (BitVec.ofNat 16 g),
     .setrawB (BitVec.ofNat 16 b), .setrawC (BitVec.ofNat 16 c)]

/-- A program as the sequence of (`cmd`, `cmd_data`) pairs of R91; none when a line is not legal. -/
def assemble (p : List AsmLine) : Option (List (Byte × Half)) :=
  if p.all AsmLine.wellFormed then some ((p.flatMap expandLine).map encode) else none

end Sys2Proof
end

