-- ==== Sys2Proof/Config.lean ====
section
/-! DEFINITION. What an implementation fixes (spec/00_scope.md R8 to R12). The constants the spec gives a value
are plain definitions. The parameters the spec leaves to an implementation are the fields of `Params`; the machine
carries one `Params` in its state and no step writes it, so that a statement about every state holds for every
choice of parameters. -/

namespace Sys2Proof

/-- `DELAY_MS` of R10: the argument of every delay request. -/
def Config.delayMs : Byte := 3#8

/-- `BLUE_MIN` of R11: the threshold of the BLUE branch, fixed by the source and not `MIN_RAW` (R162). -/
def Config.blueMin : Half := 2#16

/-- `FRAC` of R12: the fraction bits of a normalized value. -/
def Config.frac : Nat := 16

/-- The factor 255 of R151. -/
def Config.fullScale : Nat := 255

/-- The parameters of R8 (sensor addressing), R9 (sensor values) and R11 (`MIN_RAW`). No rule depends on their
values except through equality, bitwise OR and the comparison with `MIN_RAW`. -/
structure Params where
  /-- `DEV_ADDR`, the device address of every transport call (R8, R52). -/
  devAddr : Byte
  /-- `CMD_BIT`, set in every register address sent (R8, R53). -/
  cmdBit : Byte
  /-- `REG_ENABLE` (R8). -/
  regEnable : Byte
  /-- `REG_ATIME` (R8). -/
  regAtime : Byte
  /-- `REG_CONTROL` (R8). -/
  regControl : Byte
  /-- `REG_ID` (R8). -/
  regId : Byte
  /-- `REG_CDATAL` (R8). -/
  regCdatal : Byte
  /-- `REG_CDATAH` (R8). -/
  regCdatah : Byte
  /-- `REG_RDATAL` (R8). -/
  regRdatal : Byte
  /-- `REG_RDATAH` (R8). -/
  regRdatah : Byte
  /-- `REG_GDATAL` (R8). -/
  regGdatal : Byte
  /-- `REG_GDATAH` (R8). -/
  regGdatah : Byte
  /-- `REG_BDATAL` (R8). -/
  regBdatal : Byte
  /-- `REG_BDATAH` (R8). -/
  regBdatah : Byte
  /-- `EXPECTED_ID` (R9). -/
  expectedId : Byte
  /-- `ATIME_2_4MS` (R9). -/
  atime2_4ms : Byte
  /-- `GAIN_1X` (R9). -/
  gain1x : Byte
  /-- `EN_PON` (R9). -/
  enPon : Byte
  /-- `EN_AEN` (R9). -/
  enAen : Byte
  /-- `MIN_RAW`, the noise floor of the RED and GREEN branches (R11). -/
  minRaw : Half
deriving DecidableEq, Repr

/-- The default values of R8 and R9. PRESUMED: the spec marks them as general knowledge of the TCS3472 family
(log entry 3). `MIN_RAW` is OPEN in R11; DESIGN CHOICE: 10, the value of the source's scenarios (log entry 4). -/
def Params.default : Params where
  devAddr := 0x29#8
  cmdBit := 0x80#8
  regEnable := 0x00#8
  regAtime := 0x01#8
  regControl := 0x0F#8
  regId := 0x12#8
  regCdatal := 0x14#8
  regCdatah := 0x15#8
  regRdatal := 0x16#8
  regRdatah := 0x17#8
  regGdatal := 0x18#8
  regGdatah := 0x19#8
  regBdatal := 0x1A#8
  regBdatah := 0x1B#8
  expectedId := 0x4D#8
  atime2_4ms := 0xFF#8
  gain1x := 0x00#8
  enPon := 0x01#8
  enAen := 0x02#8
  minRaw := 10#16

end Sys2Proof
end

