-- ==== Sys2Proof/Machine/State.lean ====
section
/-! DEFINITION. The state of the block, the events of its interface, the reasons a step can be refused, and the
state after reset (spec/10_state.md R20 to R35; spec/00_scope.md R15; spec/70_reset_and_hazards.md R220). -/

namespace Sys2Proof.Machine

/-- `SEQ`, the sequencer state, which plays the part of a program counter (R24). -/
inductive Seq where
  /-- No command in progress; awaits `Cmd`. -/
  | idle
  /-- ID register read issued; awaits `TRspByte`. -/
  | init1
  /-- Integration-time write issued; awaits `TRspStatus`. -/
  | init2
  /-- Settle delay issued; awaits `DDone`. -/
  | init3
  /-- Gain write issued; awaits `TRspStatus`. -/
  | init4
  /-- Power-on write issued; awaits `TRspStatus`. -/
  | init5
  /-- Settle delay issued; awaits `DDone`. -/
  | init6
  /-- Power-on and ADC-enable write issued; awaits `TRspStatus`. -/
  | init7
  /-- Activation delay issued; awaits `DDone`. -/
  | init8
  /-- Low-byte read issued; awaits `TRspByte`. -/
  | rdLo
  /-- High-byte read issued; awaits `TRspByte`. -/
  | rdHi
  /-- Integration delay issued; awaits `DDone`. -/
  | rdWait
deriving DecidableEq, Repr

/-- The handle: four raw registers (R20) and three normalized registers in UQ24.16 (R22). -/
structure Handle where
  rRaw : Half
  gRaw : Half
  bRaw : Half
  cRaw : Half
  r : UQ
  g : UQ
  b : UQ
deriving DecidableEq, Repr

/-- The stored bits of `STATUS` (R26). Bit 7, `BUSY`, is derived from `SEQ` and is not stored; the register as the
host sees it is `State.status`. -/
structure Flags where
  /-- Bit 0, `INIT_DONE` (R27). -/
  initDone : Bool
  /-- Bit 1, `DND`. -/
  dnd : Bool
  /-- Bit 2, `TXF_ATIME`. -/
  txfAtime : Bool
  /-- Bit 3, `TXF_GAIN`. -/
  txfGain : Bool
  /-- Bit 4, `TXF_PON`. -/
  txfPon : Bool
  /-- Bit 5, `TXF_AEN`. -/
  txfAen : Bool
  /-- Bit 6, `ILL`. -/
  ill : Bool
deriving DecidableEq, Repr

/-- The registers a host cannot read (R31), and the command word R139 has the block remember for the `Done` event.
DEDUCED: the table of R31 does not list the latter (log entry 10). -/
structure Hidden where
  /-- `CH`, the channel of the raw read in progress. -/
  ch : Channel
  /-- `CAPF`, the read in progress captures into the handle. -/
  capf : Bool
  /-- `LO`, the low byte already received. -/
  lo : Byte
  /-- `VAL`, the assembled reading. -/
  val : Half
  /-- The command word of the raw read in progress (R139). -/
  cmd : Byte
deriving DecidableEq, Repr

/-- A request the block makes of a collaborator (R14, R15). -/
inductive Request where
  /-- `Receive(dev, reg)`. -/
  | recv (dev reg : Byte)
  /-- `Transmit(dev, reg, val)`. -/
  | xmit (dev reg val : Byte)
  /-- `DelayMilliseconds(n)`. -/
  | delay (n : Byte)
deriving DecidableEq, Repr

/-- The events the block emits (R15). -/
inductive BlockEvent where
  | tReqRecv (dev reg : Byte)
  | tReqXmit (dev reg val : Byte)
  | dReq (n : Byte)
  | diag (code info : Byte)
  | done (cmd : Byte) (val : Half)
deriving DecidableEq, Repr

/-- The events delivered to the block: the four of R15, and the host's reset (R220, R237). A reset says whether the
collaborators are reset with the block, on which R221 depends. -/
inductive EnvEvent where
  | cmd (c : Byte) (data : Half)
  | tRspByte (b : Byte)
  | tRspStatus (st : Byte)
  | dDone
  | reset (collaborators : Bool)
deriving DecidableEq, Repr

/-- The machine stops with a fault: never. The block "never halts on an error and has no fault state" (R197), and
every error of R190 is recorded in the next state, so the type has no constructor and nobody raises it (log entry
17). Safe. -/
inductive Fault where
deriving DecidableEq, Repr

/-- Why a step is refused. -/
inductive Refusal where
  /-- An arm of `exec` whose instruction has no meaning yet; no arm answers it. Safe. -/
  | notModelled (mnemonic : String)
  /-- Raised by `deliver` on a response the state does not await, which R206 and U6 place outside the model: the
  environment has no such move. Safe (log entry 7). -/
  | unsolicitedResponse (at_ : Seq) (ev : EnvEvent)
  /-- Raised by `deliver` on a reset of the block alone while a request is outstanding, where R221 and U5 have a
  model refuse the run. Safe (log entry 8). -/
  | resetLeavesRequestOutstanding (q : Request)
deriving DecidableEq, Repr

/-- Everything the spec gives the block, then the model's own three fields: the parameters, the environment's
deliveries still to come (oldest first), and the events emitted so far (oldest first). -/
structure State where
  /-- `SEQ` (R24). -/
  seq : Seq
  /-- The seven handle registers (R20, R22). -/
  handle : Handle
  /-- The stored bits of `STATUS` (R26). -/
  flags : Flags
  /-- The hidden registers (R31, R139). -/
  hidden : Hidden
  /-- The one outstanding request, none in `IDLE` (R31). -/
  outstanding : Option Request
  /-- The parameters (R8, R9, R11; R33 calls them parameters, not state). DESIGN CHOICE: log entry 3. -/
  cfg : Params
  /-- What the environment will deliver (R15, R33, R58). DESIGN CHOICE: log entry 1. -/
  inbox : List EnvEvent
  /-- The trace of the run so far (R15). DESIGN CHOICE: log entry 2. -/
  trace : List BlockEvent
deriving DecidableEq, Repr

/-- All seven registers zero (R34). -/
def Handle.reset : Handle := ⟨0#16, 0#16, 0#16, 0#16, 0#40, 0#40, 0#40⟩

/-- `STATUS = 0x00` (R34). -/
def Flags.reset : Flags := ⟨false, false, false, false, false, false, false⟩

/-- R34 leaves the hidden registers unspecified at reset. DESIGN CHOICE: all zero (log entry 5). -/
def Hidden.reset : Hidden := ⟨.red, false, 0x00#8, 0x0000#16, 0x00#8⟩

/-- The block right after reset (R34, R220), with the default parameters, nothing delivered and nothing emitted. -/
def State.reset : State where
  seq := .idle
  handle := Handle.reset
  flags := Flags.reset
  hidden := Hidden.reset
  outstanding := none
  cfg := Params.default
  inbox := []
  trace := []

end Sys2Proof.Machine
end

