-- ==== Sys2Proof/Machine/Flags.lean ====
section
/-! DEFINITION. `STATUS`: the register as the host reads it, and every way its bits change
(spec/10_state.md R26 to R29). -/

namespace Sys2Proof.Machine

/-- The value 2^k when a flag is set, as one bit of `STATUS`. -/
def flagBit (f : Bool) (k : Nat) : Byte := if f then BitVec.twoPow 8 k else 0#8

/-- `BUSY = (SEQ != IDLE)` (R24, R26). -/
def State.busy (s : State) : Bool := s.seq != .idle

/-- `cmd_ready = (SEQ == IDLE)` (R24, R83). -/
def State.cmdReady (s : State) : Bool := s.seq == .idle

/-- The eight bits of `STATUS` in the layout of R26. -/
def State.status (s : State) : Byte :=
  flagBit s.flags.initDone 0 ||| flagBit s.flags.dnd 1 ||| flagBit s.flags.txfAtime 2 |||
  flagBit s.flags.txfGain 3 ||| flagBit s.flags.txfPon 4 ||| flagBit s.flags.txfAen 5 |||
  flagBit s.flags.ill 6 ||| flagBit s.busy 7

/-- The four writes of `INIT`, the steps whose status is looked at (R120, R192). -/
inductive WriteStep where
  /-- Step 2, integration time. -/
  | atime
  /-- Step 4, gain. -/
  | gain
  /-- Step 5, power-on. -/
  | pon
  /-- Step 7, power-on and ADC-enable. -/
  | aen
deriving DecidableEq, Repr

/-- The init step number that a failed write puts in `Diag.info` (R89). -/
def WriteStep.number : WriteStep → Byte
  | .atime => 2#8
  | .gain => 4#8
  | .pon => 5#8
  | .aen => 7#8

/-- The `TXF_*` flag of a write `<- 1` (R192). -/
def Flags.setTxf (f : Flags) : WriteStep → Flags
  | .atime => { f with txfAtime := true }
  | .gain => { f with txfGain := true }
  | .pon => { f with txfPon := true }
  | .aen => { f with txfAen := true }

/-- Bits 1 to 5 cleared, bits 0 and 6 left alone: what the acceptance of `INIT` does (R111), and the whole of the
"return" from an error (R202). -/
def Flags.clearInitErrors (f : Flags) : Flags :=
  { f with dnd := false, txfAtime := false, txfGain := false, txfPon := false, txfAen := false }

end Sys2Proof.Machine
end

