-- ==== Sys2Proof/Machine/Ops.lean ====
section
/-! DEFINITION. The named operations every command is written over: the pseudocode primitives of spec/00_scope.md
R14, the events of R15, the recording of an error (spec/60_exceptions.md R190 to R202) and the acceptance of a
command (spec/30_encoding.md R83). The block has no memory (spec/20_memory.md R50), so there is no operation
over one. -/

namespace Sys2Proof.Machine

/-- `emit e`: the event is the next of the trace (R15). -/
def emit (e : BlockEvent) (s : State) : State := { s with trace := s.trace ++ [e] }

/-- The event that carries a request (R15). -/
def Request.event : Request → BlockEvent
  | .recv dev reg => .tReqRecv dev reg
  | .xmit dev reg val => .tReqXmit dev reg val
  | .delay n => .dReq n

/-- Issue a request: its event is emitted and it is now the one outstanding request (R31, R61). -/
def request (q : Request) (s : State) : State :=
  { s with trace := s.trace ++ [q.event], outstanding := some q }

/-- A register address as it is sent: `CMD_BIT | reg` (R53). -/
def busAddress (cfg : Params) (reg : Byte) : Byte := cfg.cmdBit ||| reg

/-- The request half of `MemRead(reg, 1)` (R14): `Receive(DEV_ADDR, CMD_BIT | reg)`. -/
def memRead (reg : Byte) (s : State) : State := request (.recv s.cfg.devAddr (busAddress s.cfg reg)) s

/-- The request half of `MemWrite(reg, 1, v)` (R14): `Transmit(DEV_ADDR, CMD_BIT | reg, v)`. -/
def memWrite (reg v : Byte) (s : State) : State := request (.xmit s.cfg.devAddr (busAddress s.cfg reg) v) s

/-- The request half of `Delay(DELAY_MS)` (R10, R14). -/
def delay (s : State) : State := request (.delay Config.delayMs) s

/-- `SEQ <- q` (R14). -/
def goto (q : Seq) (s : State) : State := { s with seq := q }

/-- The `Done` of a command that completes in the step that accepts it: `SEQ` stays as it is (R25, R87). -/
def respond (cmd : Byte) (val : Half) (s : State) : State := emit (.done cmd val) s

/-- `done(val)` at the end of a sequence: the `Done` is emitted, no request is outstanding, `SEQ <- IDLE`
(R14, R31, R87). -/
def finish (cmd : Byte) (val : Half) (s : State) : State :=
  { s with trace := s.trace ++ [.done cmd val], outstanding := none, seq := .idle }

/-- The error causes, the complete list of R190, with what each records. -/
inductive ErrorCause where
  /-- DeviceNotDetected, with the byte received from the ID register (R191). -/
  | deviceNotDetected (id : Byte)
  /-- TransmitFailure, with the init step of the failed write (R192). -/
  | transmitFailure (w : WriteStep)
  /-- DivideByZeroGuard, which records nothing (R193). -/
  | divideByZeroGuard
  /-- IllegalCommand, with the command word (R86, R194). -/
  | illegalCommand (cmd : Byte)
deriving DecidableEq, Repr

/-- What an error does to `STATUS` (R190). -/
def ErrorCause.mark : ErrorCause → Flags → Flags
  | .deviceNotDetected _, f => { f with dnd := true }
  | .transmitFailure w, f => f.setTxf w
  | .divideByZeroGuard, f => f
  | .illegalCommand _, f => { f with ill := true }

/-- The `Diag` event of an error, with the codes of R89; DivideByZeroGuard emits none (R193). -/
def ErrorCause.diag : ErrorCause → List BlockEvent
  | .deviceNotDetected id => [.diag 0x01#8 id]
  | .transmitFailure w => [.diag 0x02#8 w.number]
  | .divideByZeroGuard => []
  | .illegalCommand cmd => [.diag 0x03#8 cmd]

/-- `raise E`: the flag and the `Diag` of the error and nothing else (R14, R201); no handler, no saved state, no
mode. What happens next is the rule's that raises. -/
def raise (e : ErrorCause) (s : State) : State :=
  { s with flags := e.mark s.flags, trace := s.trace ++ e.diag }

/-- The "return" from the errors of an `INIT`: their flags are cleared, which has no other effect (R202). -/
def clearInitErrors (s : State) : State := { s with flags := s.flags.clearInitErrors }

/-- The consequence of a write's status: only zero against non-zero is looked at (R51, R192). -/
def checkStatus (w : WriteStep) (st : Byte) (s : State) : State :=
  if st = 0#8 then s else raise (.transmitFailure w) s

/-- Acceptance (R83): a command acts only in `IDLE`. In any other state it is not looked at, not queued and not
recorded, so nothing changes (log entry 6). -/
def accept (f : State → State) (s : State) : Host.Outcome State Fault Refusal :=
  if s.seq = .idle then .next (f s) else .next s

end Sys2Proof.Machine
end

