-- ==== Sys2Proof/Machine/Operands.lean ====
section
/-! DEFINITION. The operand forms: the handle registers `h[f]` (spec/00_scope.md R14), the channel field of a command
word (spec/30_encoding.md R80, R139), and the sensor registers of a channel (spec/41_raw_read.md R130). -/

namespace Sys2Proof.Machine

/-- `h[f]` for the raw register of a channel (R14, R20). -/
def Handle.raw (h : Handle) : Channel → Half
  | .red => h.rRaw
  | .green => h.gRaw
  | .blue => h.bRaw
  | .clear => h.cRaw

/-- `h[f] <- v` for the raw register of a channel; the six other registers are unchanged (R14, R23). -/
def Handle.setRaw (h : Handle) (v : Half) : Channel → Handle
  | .red => { h with rRaw := v }
  | .green => { h with gRaw := v }
  | .blue => { h with bRaw := v }
  | .clear => { h with cRaw := v }

/-- A raw register of the machine `<- v`. -/
def writeRaw (ch : Channel) (v : Half) (s : State) : State := { s with handle := s.handle.setRaw v ch }

/-- The three normalized registers written together (R150, R184). -/
def writeNorm (r g b : UQ) (s : State) : State := { s with handle := { s.handle with r := r, g := g, b := b } }

/-- `REG_L(ch)` (R130). -/
def regL (cfg : Params) : Channel → Byte
  | .red => cfg.regRdatal
  | .green => cfg.regGdatal
  | .blue => cfg.regBdatal
  | .clear => cfg.regCdatal

/-- `REG_H(ch)` (R130). -/
def regH (cfg : Params) : Channel → Byte
  | .red => cfg.regRdatah
  | .green => cfg.regGdatah
  | .blue => cfg.regBdatah
  | .clear => cfg.regCdatah

/-- `c[1:0]` of a raw read's command word, as a channel (R139). -/
def cmdChannel (c : Byte) : Channel := channelOfSel (c.extractLsb' 0 2)

/-- `c[4]` of a raw read's command word (R139). -/
def cmdCaptures (c : Byte) : Bool := c.getLsbD 4

/-- `(high << 8) | low` in 16 bits (R55, R130). -/
def assembleReading (high low : Byte) : Half := (high.setWidth 16 <<< 8) ||| low.setWidth 16

end Sys2Proof.Machine
end

