-- ==== Sys2Proof/Machine/Color.lean ====
section
/-! DEFINITION. Normalization and classification (spec/42_color.md): `GETRGB` R150 to R157, `DETECT` R160 to R167. -/

namespace Sys2Proof.Machine

/-- `Norm(x, c) = floor(x * 255 * 2^16 / c)` in 40 bits (R151), computed exactly; used with `c ≥ 1` only. -/
def normValue (x c : Half) : UQ :=
  BitVec.ofNat 40 (x.toNat * Config.fullScale * 2 ^ Config.frac / c.toNat)

/-- The three normalized registers of a handle, from its raw registers as they stand (R150, R156). -/
def normalizeRaw (s : State) : State :=
  let h := s.handle
  if h.cRaw = 0#16 then writeNorm 0#40 0#40 0#40 (raise .divideByZeroGuard s)
  else writeNorm (normValue h.rRaw h.cRaw) (normValue h.gRaw h.cRaw) (normValue h.bRaw h.cRaw) s

/-- `GETRGB`, command word 0x02 (R150). -/
def execGetrgb (s : State) : Host.Outcome State Fault Refusal :=
  accept (fun s => respond 0x02#8 0x0000#16 (normalizeRaw s)) s

/-- ColorVerdict (R88). -/
inductive Verdict where
  | red
  | green
  | blue
  | nothing
deriving DecidableEq, Repr

/-- The 2-bit code of a verdict (R88). -/
def Verdict.code : Verdict → BitVec 2
  | .red => 0#2
  | .green => 1#2
  | .blue => 2#2
  | .nothing => 3#2

/-- The comparison chain of R160: unsigned and strict throughout (R161), `BLUE_MIN` and not `MIN_RAW` in the BLUE
branch (R162). It reads six registers and never `C_RAW`. -/
def classify (minRaw : Half) (h : Handle) : Verdict :=
  if h.g < h.r ∧ h.b < h.r ∧ minRaw < h.rRaw then .red
  else if h.r < h.g ∧ h.b < h.g ∧ minRaw < h.gRaw then .green
  else if h.r < h.b ∧ h.g < h.b ∧ Config.blueMin < h.bRaw then .blue
  else .nothing

/-- `DETECT`, command word 0x03 (R160): only the `Done` carries the verdict, nothing is stored (R166). -/
def execDetect (s : State) : Host.Outcome State Fault Refusal :=
  accept (fun s => respond 0x03#8 ((classify s.cfg.minRaw s.handle).code.setWidth 16) s) s

end Sys2Proof.Machine
end

