-- ==== Sys2Proof/Machine/HandleLoad.lean ====
section
/-! DEFINITION. The handle loads (spec/43_handle_access.md R180 to R183): one raw register is written in the accepting
step; the normalized registers stay as they are and become stale (R23). -/

namespace Sys2Proof.Machine

/-- `SETRAW.R #n`, command word 0x08 (R180). -/
def execSetrawR (n : Half) (s : State) : Host.Outcome State Fault Refusal :=
  accept (fun s => respond 0x08#8 0x0000#16 (writeRaw .red n s)) s

/-- `SETRAW.G #n`, command word 0x09 (R181). -/
def execSetrawG (n : Half) (s : State) : Host.Outcome State Fault Refusal :=
  accept (fun s => respond 0x09#8 0x0000#16 (writeRaw .green n s)) s

/-- `SETRAW.B #n`, command word 0x0A (R182). -/
def execSetrawB (n : Half) (s : State) : Host.Outcome State Fault Refusal :=
  accept (fun s => respond 0x0A#8 0x0000#16 (writeRaw .blue n s)) s

/-- `SETRAW.C #n`, command word 0x0B (R183). -/
def execSetrawC (n : Half) (s : State) : Host.Outcome State Fault Refusal :=
  accept (fun s => respond 0x0B#8 0x0000#16 (writeRaw .clear n s)) s

end Sys2Proof.Machine
end

