-- ==== Sys2Proof/Machine/Init.lean ====
section
/-! DEFINITION. `INIT` (spec/40_init.md): its acceptance R111 and one definition for each of the eight steps, R112 to
R119. Each takes the answer its state awaits. -/

namespace Sys2Proof.Machine

/-- R111: the five flags of the last `INIT` are cleared and the ID register is asked for. -/
def startInit (s : State) : State :=
  goto .init1 (memRead s.cfg.regId (clearInitErrors s))

/-- `INIT`, command word 0x01 (R110, R111). -/
def execInit (s : State) : Host.Outcome State Fault Refusal := accept startInit s

/-- R112: only this step can stop the sequence (R120). -/
def initStep1 (id : Byte) (s : State) : State :=
  if id = s.cfg.expectedId then goto .init2 (memWrite s.cfg.regAtime s.cfg.atime2_4ms s)
  else finish 0x01#8 0x0000#16 (raise (.deviceNotDetected id) s)

/-- R113. -/
def initStep2 (st : Byte) (s : State) : State := goto .init3 (delay (checkStatus .atime st s))

/-- R114. -/
def initStep3 (s : State) : State := goto .init4 (memWrite s.cfg.regControl s.cfg.gain1x s)

/-- R115: no delay stands between the gain write and the power-on write. -/
def initStep4 (st : Byte) (s : State) : State :=
  goto .init5 (memWrite s.cfg.regEnable s.cfg.enPon (checkStatus .gain st s))

/-- R116. -/
def initStep5 (st : Byte) (s : State) : State := goto .init6 (delay (checkStatus .pon st s))

/-- R117: the two enable flags together (R90). -/
def initStep6 (s : State) : State :=
  goto .init7 (memWrite s.cfg.regEnable (s.cfg.enPon ||| s.cfg.enAen) s)

/-- R118. -/
def initStep7 (st : Byte) (s : State) : State := goto .init8 (delay (checkStatus .aen st s))

/-- R119: `INIT_DONE <- 1`, here and nowhere else, whatever the failure flags hold. -/
def initStep8 (s : State) : State :=
  finish 0x01#8 0x0000#16 { s with flags := { s.flags with initDone := true } }

end Sys2Proof.Machine
end

