-- ==== Sys2Proof/Machine/RawRead.lean ====
section
/-! DEFINITION. The raw channel reads (spec/41_raw_read.md): the acceptance R139 all eight commands share, the eight
commands R131 to R138, and the three steps R140 to R142. -/

namespace Sys2Proof.Machine

/-- R139: channel and capture bit from the command word, the word remembered for `Done`, the low byte asked for.
`LO` and `VAL` keep what they held; they are written before they are read (R31). -/
def startRawRead (c : Byte) (s : State) : State :=
  goto .rdLo (memRead (regL s.cfg (cmdChannel c))
    { s with hidden := { s.hidden with ch := cmdChannel c, capf := cmdCaptures c, cmd := c } })

/-- `GETRAW.R` (R131). -/
def execGetrawR (s : State) : Host.Outcome State Fault Refusal := accept (startRawRead 0x04#8) s

/-- `GETRAW.G` (R132). -/
def execGetrawG (s : State) : Host.Outcome State Fault Refusal := accept (startRawRead 0x05#8) s

/-- `GETRAW.B` (R133). -/
def execGetrawB (s : State) : Host.Outcome State Fault Refusal := accept (startRawRead 0x06#8) s

/-- `GETRAW.C` (R134). -/
def execGetrawC (s : State) : Host.Outcome State Fault Refusal := accept (startRawRead 0x07#8) s

/-- `GETRAWC.R` (R135). -/
def execGetrawcR (s : State) : Host.Outcome State Fault Refusal := accept (startRawRead 0x14#8) s

/-- `GETRAWC.G` (R136). -/
def execGetrawcG (s : State) : Host.Outcome State Fault Refusal := accept (startRawRead 0x15#8) s

/-- `GETRAWC.B` (R137). -/
def execGetrawcB (s : State) : Host.Outcome State Fault Refusal := accept (startRawRead 0x16#8) s

/-- `GETRAWC.C` (R138). -/
def execGetrawcC (s : State) : Host.Outcome State Fault Refusal := accept (startRawRead 0x17#8) s

/-- R140: the low byte has arrived, the high byte is asked for (R143). -/
def readLow (b : Byte) (s : State) : State :=
  goto .rdHi (memRead (regH s.cfg s.hidden.ch) { s with hidden := { s.hidden with lo := b } })

/-- R141: `VAL <- {b, LO}`, then the delay of every raw read (R145). -/
def readHigh (b : Byte) (s : State) : State :=
  goto .rdWait (delay { s with hidden := { s.hidden with val := assembleReading b s.hidden.lo } })

/-- R142: the captured value is written in the step that ends the command. -/
def readEnd (s : State) : State :=
  finish s.hidden.cmd s.hidden.val
    (if s.hidden.capf then writeRaw s.hidden.ch s.hidden.val s else s)

end Sys2Proof.Machine
end

