-- ==== Sys2Proof/Machine/Dispatch.lean ====
section
/-! DEFINITION. One arm per command (spec/30_encoding.md R81): the accepting step of each (R83). -/

namespace Sys2Proof.Machine

def exec (i : Instr) (s : State) : Host.Outcome State Fault Refusal :=
  match i with
  | .init => Sys2Proof.Machine.execInit s
  | .getrgb => Sys2Proof.Machine.execGetrgb s
  | .detect => Sys2Proof.Machine.execDetect s
  | .getrawR => Sys2Proof.Machine.execGetrawR s
  | .getrawG => Sys2Proof.Machine.execGetrawG s
  | .getrawB => Sys2Proof.Machine.execGetrawB s
  | .getrawC => Sys2Proof.Machine.execGetrawC s
  | .getrawcR => Sys2Proof.Machine.execGetrawcR s
  | .getrawcG => Sys2Proof.Machine.execGetrawcG s
  | .getrawcB => Sys2Proof.Machine.execGetrawcB s
  | .getrawcC => Sys2Proof.Machine.execGetrawcC s
  | .setrawR n => Sys2Proof.Machine.execSetrawR n s
  | .setrawG n => Sys2Proof.Machine.execSetrawG n s
  | .setrawB n => Sys2Proof.Machine.execSetrawB n s
  | .setrawC n => Sys2Proof.Machine.execSetrawC n s

end Sys2Proof.Machine
end

