-- ==== Sys2Proof/Machine/Deliver.lean ====
section
/-! DEFINITION. What the block does with each event the environment delivers (spec/00_scope.md R15;
spec/60_exceptions.md R200, R206; spec/70_reset_and_hazards.md R220, R221, R237): the host's command, the two
transport responses, the end of a delay, and reset. -/

namespace Sys2Proof.Machine

/-- R86: an illegal command word is consumed with exactly these effects. -/
def illegalCommand (c : Byte) (s : State) : State :=
  respond c 0x0000#16 (raise (.illegalCommand c) s)

/-- `Cmd(c, data)`: looked at in `IDLE` only (R83); there it is decoded and runs, or is illegal (R82). -/
def onCommand (c : Byte) (data : Half) (s : State) : Host.Outcome State Fault Refusal :=
  if s.seq = .idle then
    match decode c data with
    | .ok i => exec i s
    | .error _ => .next (illegalCommand c s)
  else .next s

/-- `TRspByte(b)`, awaited by three states (R24). -/
def onByte (b : Byte) (s : State) : Host.Outcome State Fault Refusal :=
  match s.seq with
  | .init1 => .next (initStep1 b s)
  | .rdLo => .next (readLow b s)
  | .rdHi => .next (readHigh b s)
  | .idle | .init2 | .init3 | .init4 | .init5 | .init6 | .init7 | .init8 | .rdWait =>
    .refused (.unsolicitedResponse s.seq (.tRspByte b))

/-- `TRspStatus(st)`, awaited by four states (R24). -/
def onStatus (st : Byte) (s : State) : Host.Outcome State Fault Refusal :=
  match s.seq with
  | .init2 => .next (initStep2 st s)
  | .init4 => .next (initStep4 st s)
  | .init5 => .next (initStep5 st s)
  | .init7 => .next (initStep7 st s)
  | .idle | .init1 | .init3 | .init6 | .init8 | .rdLo | .rdHi | .rdWait =>
    .refused (.unsolicitedResponse s.seq (.tRspStatus st))

/-- `DDone`, awaited by four states (R24). -/
def onDelayDone (s : State) : Host.Outcome State Fault Refusal :=
  match s.seq with
  | .init3 => .next (initStep3 s)
  | .init6 => .next (initStep6 s)
  | .init8 => .next (initStep8 s)
  | .rdWait => .next (readEnd s)
  | .idle | .init1 | .init2 | .init4 | .init5 | .init7 | .rdLo | .rdHi =>
    .refused (.unsolicitedResponse s.seq .dDone)

/-- The block after its reset input: every piece of its state at the reset value (R34, R220). The parameters, what
the environment will still deliver, and what was already observed are not state of the block and stay. -/
def resetBlock (s : State) : State :=
  { State.reset with cfg := s.cfg, inbox := s.inbox, trace := s.trace }

/-- Reset (R220, R221). With a request outstanding it is defined only if the collaborators are reset too. -/
def onReset (collaborators : Bool) (s : State) : Host.Outcome State Fault Refusal :=
  match s.outstanding with
  | none => .next (resetBlock s)
  | some q => if collaborators then .next (resetBlock s) else .refused (.resetLeavesRequestOutstanding q)

/-- One delivered event. -/
def deliver (e : EnvEvent) (s : State) : Host.Outcome State Fault Refusal :=
  match e with
  | .cmd c data => onCommand c data s
  | .tRspByte b => onByte b s
  | .tRspStatus st => onStatus st s
  | .dDone => onDelayDone s
  | .reset collaborators => onReset collaborators s

/-- One step: the next delivered event is handled; with none delivered the block stays as it is (R15 `await`, R196,
R210). -/
def takeEvent (s : State) : Host.Outcome State Fault Refusal :=
  match s.inbox with
  | [] => .next s
  | e :: rest => deliver e { s with inbox := rest }

/-- The state in which the very next step accepts the command (`c`, `data`): idle, and the command delivered first
(log entry 13). -/
def offerCommand (c : Byte) (data : Half) (s : State) : State :=
  { s with seq := .idle, outstanding := none, inbox := .cmd c data :: s.inbox }

/-- The command word and operand of a table word (log entry 13). -/
def offerTableWord (s : State) (nbits w : Nat) : State :=
  let v := w % 2 ^ nbits
  offerCommand (BitVec.ofNat 8 v) (BitVec.ofNat 16 (v >>> 8)) s

end Sys2Proof.Machine
end

