-- ==== Sys2Proof/Machine/Ports.lean ====
section
/-! DEFINITION. What the outside sees of the block without a command: the host's view (spec/43_handle_access.md R184),
and the informative signal rendering of spec/30_encoding.md R93, one event to one cycle of the matching `*_valid`.
No rule depends on the rendering and no step reads it. -/

namespace Sys2Proof.Machine

/-- What is visible to the host at all times, in every `SEQ` state (R184): `cmd_ready`, `status` and the `h_*`
outputs. -/
structure HostView where
  cmdReady : Bool
  status : Byte
  handle : Handle
deriving DecidableEq, Repr

/-- Reading is no command and has no side effect (R184). -/
def State.hostView (s : State) : HostView := ⟨s.cmdReady, s.status, s.handle⟩

/-- One cycle of the event outputs of R93. -/
structure OutPins where
  rspValid : Bool := false
  rspCmd : Byte := 0#8
  rspData : Half := 0#16
  tReqValid : Bool := false
  tReqWrite : Bool := false
  tReqDev : Byte := 0#8
  tReqReg : Byte := 0#8
  tReqVal : Byte := 0#8
  dReqValid : Bool := false
  dReqMs : Byte := 0#8
  diagValid : Bool := false
  diagCode : Byte := 0#8
  diagInfo : Byte := 0#8
deriving DecidableEq, Repr

/-- The cycle that carries an emitted event. DESIGN CHOICE: lines of another `*_valid` are zero (log entry 12). -/
def BlockEvent.pins : BlockEvent → OutPins
  | .tReqRecv dev reg => { tReqValid := true, tReqDev := dev, tReqReg := reg }
  | .tReqXmit dev reg val =>
    { tReqValid := true, tReqWrite := true, tReqDev := dev, tReqReg := reg, tReqVal := val }
  | .dReq n => { dReqValid := true, dReqMs := n }
  | .diag code info => { diagValid := true, diagCode := code, diagInfo := info }
  | .done cmd val => { rspValid := true, rspCmd := cmd, rspData := val }

/-- The event a transport answer line stands for: the outstanding request says whether it is a byte or a status. -/
def transportAnswer (s : State) (rspByte rspStatus : Byte) : Option EnvEvent :=
  match s.outstanding with
  | some (.recv _ _) => some (.tRspByte rspByte)
  | some (.xmit _ _ _) => some (.tRspStatus rspStatus)
  | some (.delay _) | none => none

/-- One cycle of the inputs of R93. -/
structure InPins where
  rst : Bool := false
  cmdValid : Bool := false
  cmd : Byte := 0#8
  cmdData : Half := 0#16
  tRspValid : Bool := false
  tRspByte : Byte := 0#8
  tRspStatus : Byte := 0#8
  dDone : Bool := false
deriving DecidableEq, Repr

/-- The event a cycle of inputs delivers. `cmd_valid` is looked at with `cmd_ready` high only (R83). Two events never
come together (R200); DESIGN CHOICE: the order of the branches below is never used by an environment that keeps R200
(log entry 12). `collaborators` says whether `rst` reaches the collaborators too (R221). -/
def deliveredBy (collaborators : Bool) (s : State) (p : InPins) : Option EnvEvent :=
  if p.rst then some (.reset collaborators)
  else if p.tRspValid then transportAnswer s p.tRspByte p.tRspStatus
  else if p.dDone then some .dDone
  else if p.cmdValid && s.cmdReady then some (.cmd p.cmd p.cmdData)
  else none

end Sys2Proof.Machine
end

