-- ==== Sys2Proof/Safety.lean ====
section
/-! DEFINITION. The terms claims are stated in: runs, programs and their end (spec/70_reset_and_hazards.md R238), stuck states
(spec/60_exceptions.md R196), what the environment may deliver (R206, R221, spec/30_encoding.md R83), the request a
sequencer state has outstanding (spec/10_state.md R24, R31), and the invariants. -/

namespace Sys2Proof.Machine

/-- `k` steps, stopping at the first fault or refusal. -/
def run : Nat → State → Host.Outcome State Fault Refusal
  | 0, s => .next s
  | k + 1, s =>
    match step s with
    | .next s' => run k s'
    | .fault r => .fault r
    | .refused r => .refused r

/-- Is the event a `Done`? -/
def BlockEvent.isDone : BlockEvent → Bool
  | .done _ _ => true
  | .tReqRecv _ _ | .tReqXmit _ _ _ | .dReq _ | .diag _ _ => false

/-- How many `Done` events a run has emitted. -/
def State.doneCount (s : State) : Nat := s.trace.countP BlockEvent.isDone

/-- An answer of a collaborator: no command and no reset (R15). -/
def EnvEvent.isAnswer : EnvEvent → Bool
  | .tRspByte _ | .tRspStatus _ | .dDone => true
  | .cmd _ _ | .reset _ => false

/-- A program: its commands in order, each a pair (`cmd`, `cmd_data`), legal or not (R91, R238). -/
abbrev Program := List (Byte × Half)

/-- `Running p s t`: from the idle state `s` the host has issued exactly the commands `p`, in order, each in `IDLE`,
that is after the `Done` of the one before; the collaborators have answered while a command was in progress; and the
block now stands at `t` (R238, R83, R237). Nothing else happened: no reset, no command offered while busy. -/
inductive Running : Program → State → State → Prop where
  /-- Nothing issued yet. -/
  | start (s : State) (idle : s.seq = .idle) (noRequest : s.outstanding = none) : Running [] s s
  /-- The host issues the next command of the program. -/
  | issue {p : Program} {s t u : State} (c : Byte) (d : Half) (rest : List EnvEvent) (before : Running p s t)
    (idle : t.seq = .idle) (next : t.inbox = .cmd c d :: rest) (taken : step t = .next u) : Running (p ++ [(c, d)]) s u
  /-- A collaborator answers the command in progress. -/
  | answer {p : Program} {s t u : State} (e : EnvEvent) (rest : List EnvEvent) (before : Running p s t)
    (busy : t.seq ≠ .idle) (next : t.inbox = e :: rest) (isAnswer : e.isAnswer = true) (taken : step t = .next u) :
    Running p s u

/-- The run of the program `p` from `s` is over at `t`: all its commands were issued and as many `Done` events have
been emitted as it has commands (R238). -/
def RunOver (p : Program) (s t : State) : Prop := Running p s t ∧ t.doneCount = s.doneCount + p.length

/-- `f` is the final state of the run of `p` from `s`, over at `t`: the seven handle registers and `STATUS` (R238). A
run that is not over has none. -/
def FinalState (p : Program) (s t : State) (f : Handle × Byte) : Prop := RunOver p s t ∧ f = (t.handle, t.status)

/-- `o` is the observation of the run of `p` from `s`, over at `t`: the events it emitted, in order, together with the
final state (R238). -/
def RunObservation (p : Program) (s t : State) (o : List BlockEvent × Handle × Byte) : Prop :=
  t.trace = s.trace ++ o.1 ∧ FinalState p s t o.2

/-- The state the acceptance of a command word leads to (R25): `INIT` and the raw reads begin a sequence, every other
word, legal or not, completes at once. -/
def entryState (c : Byte) : Seq :=
  if c = 0x01#8 then .init1
  else if c ∈ [0x04#8, 0x05#8, 0x06#8, 0x07#8, 0x14#8, 0x15#8, 0x16#8, 0x17#8] then .rdLo
  else .idle

/-- The list is exactly the answers that take a command from a sequencer state to its end: each of the kind that the
table of R24 has its state await, along the walk of R25, which an ID other than the expected one cuts short (R112). -/
def answersToEnd (expectedId : Byte) : Seq → List EnvEvent → Bool
  | .idle, [] => true
  | .init1, .tRspByte id :: l => if id = expectedId then answersToEnd expectedId .init2 l else l.isEmpty
  | .init2, .tRspStatus _ :: l => answersToEnd expectedId .init3 l
  | .init3, .dDone :: l => answersToEnd expectedId .init4 l
  | .init4, .tRspStatus _ :: l => answersToEnd expectedId .init5 l
  | .init5, .tRspStatus _ :: l => answersToEnd expectedId .init6 l
  | .init6, .dDone :: l => answersToEnd expectedId .init7 l
  | .init7, .tRspStatus _ :: l => answersToEnd expectedId .init8 l
  | .init8, .dDone :: l => l.isEmpty
  | .rdLo, .tRspByte _ :: l => answersToEnd expectedId .rdHi l
  | .rdHi, .tRspByte _ :: l => answersToEnd expectedId .rdWait l
  | .rdWait, .dDone :: l => l.isEmpty
  | _, _ => false

/-- A command is in progress and the environment delivers nothing more (R196). Such a state is never final: the
statement RunIsOverExactlyInIdle says so. -/
def State.stuck (s : State) : Prop := s.seq ≠ .idle ∧ s.inbox = []

/-- What the environment may deliver in a state: a response only where it is awaited, a reset unless it leaves a
request outstanding in its collaborator (R206, R221), and a command anywhere. DEDUCED: R83, R237 and U10 give the host
no move to deliver one while busy, and the model allows the delivery and does not take it (log entry 6). -/
def State.mayDeliver (s : State) : EnvEvent → Bool
  | .cmd _ _ => true
  | .tRspByte _ => s.seq == .init1 || s.seq == .rdLo || s.seq == .rdHi
  | .tRspStatus _ => s.seq == .init2 || s.seq == .init4 || s.seq == .init5 || s.seq == .init7
  | .dDone => s.seq == .init3 || s.seq == .init6 || s.seq == .init8 || s.seq == .rdWait
  | .reset collaborators => collaborators || s.outstanding.isNone

/-- An environment over unlimited time: what it delivers at each moment, if anything (R205: "at some later step of the
environment's choosing"). -/
abbrev Environment := Nat → Option EnvEvent

/-- The first `k` moments under an environment: at a moment with a delivery the block takes one step on it. -/
def runUnder (env : Environment) (s : State) : Nat → Host.Outcome State Fault Refusal
  | 0 => .next s
  | k + 1 =>
    match runUnder env s k with
    | .next t =>
      match env k with
      | some e => step { t with inbox := [e] }
      | none => .next t
    | .fault r => .fault r
    | .refused r => .refused r

/-- The delay is fair: a delay awaited at some moment is completed then or later (R205). -/
def DelaysComplete (env : Environment) (s : State) : Prop :=
  ∀ k t, runUnder env s k = .next t → t.seq ∈ [Seq.init3, .init6, .init8, .rdWait] →
    ∃ j, k ≤ j ∧ env j = some .dDone

/-- The transport is fair, the premise R205 has a claim state: a call awaited at some moment is answered then or later,
a `Receive` by a byte and a `Transmit` by a status. -/
def TransportAnswers (env : Environment) (s : State) : Prop :=
  ∀ k t, runUnder env s k = .next t →
    (t.seq ∈ [Seq.init1, .rdLo, .rdHi] → ∃ j b, k ≤ j ∧ env j = some (.tRspByte b)) ∧
    (t.seq ∈ [Seq.init2, .init4, .init5, .init7] → ∃ j st, k ≤ j ∧ env j = some (.tRspStatus st))

/-- The environment delivers nothing it may not (R206), and no reset. -/
def DeliversWhatItMay (env : Environment) (s : State) : Prop :=
  ∀ k t e, runUnder env s k = .next t → env k = some e → t.mayDeliver e = true ∧ ∀ b, e ≠ .reset b

/-- The request that `SEQ` says has been issued (R24), with its arguments (R52, R53, R90, R130). -/
def State.issued (s : State) : Option Request :=
  let c := s.cfg
  match s.seq with
  | .idle => none
  | .init1 => some (.recv c.devAddr (c.cmdBit ||| c.regId))
  | .init2 => some (.xmit c.devAddr (c.cmdBit ||| c.regAtime) c.atime2_4ms)
  | .init3 | .init6 | .init8 | .rdWait => some (.delay 3#8)
  | .init4 => some (.xmit c.devAddr (c.cmdBit ||| c.regControl) c.gain1x)
  | .init5 => some (.xmit c.devAddr (c.cmdBit ||| c.regEnable) c.enPon)
  | .init7 => some (.xmit c.devAddr (c.cmdBit ||| c.regEnable) (c.enPon ||| c.enAen))
  | .rdLo => some (.recv c.devAddr (c.cmdBit ||| regL c s.hidden.ch))
  | .rdHi => some (.recv c.devAddr (c.cmdBit ||| regH c s.hidden.ch))

/-- Exactly one outstanding request in every non-idle state, the one `SEQ` names, and none in `IDLE` (R24, R31). -/
def RequestMatchesSeq (s : State) : Prop := s.outstanding = s.issued

/-- While a raw read is in progress the remembered command word is the word of that read: `ZERO` 000, `CAP` the
capture flag, `GRP` 01, `SEL` the channel (R80, R139). -/
def ReadWordMatches (s : State) : Prop :=
  s.seq = .rdLo ∨ s.seq = .rdHi ∨ s.seq = .rdWait →
    (splitFields s.hidden.cmd).zero = 0#3 ∧ (splitFields s.hidden.cmd).grp = 1#2 ∧
    (splitFields s.hidden.cmd).cap = s.hidden.capf ∧ cmdChannel s.hidden.cmd = s.hidden.ch

/-- The failure flags of the writes that the present `INIT` has not yet had answered are clear, `DND` is clear while
an `INIT` is in progress, and `DND` excludes all four failure flags (R111, R200). -/
def FlagsDescribeLastInit (s : State) : Prop :=
  (s.flags.dnd = true → s.flags.txfAtime = false ∧ s.flags.txfGain = false ∧
    s.flags.txfPon = false ∧ s.flags.txfAen = false) ∧
  (s.seq ∈ [Seq.init1, .init2, .init3, .init4, .init5, .init6, .init7, .init8] → s.flags.dnd = false) ∧
  (s.seq ∈ [Seq.init1, .init2] → s.flags.txfAtime = false) ∧
  (s.seq ∈ [Seq.init1, .init2, .init3, .init4] → s.flags.txfGain = false) ∧
  (s.seq ∈ [Seq.init1, .init2, .init3, .init4, .init5] → s.flags.txfPon = false) ∧
  (s.seq ∈ [Seq.init1, .init2, .init3, .init4, .init5, .init6, .init7] → s.flags.txfAen = false)

/-- The number `floor(x * 255 * 65536 / c)`, or 0 for `c = 0`: what `GETRGB` leaves in a normalized register
(R150 to R152), as a natural number. -/
def normalizedValue (x c : Nat) : Nat := if c = 0 then 0 else x * 255 * 65536 / c

/-- The normalized registers are what `GETRGB` makes of some raw quadruple (R185); the reset handle is one such, with
clear 0 (R34). -/
def NormalizedFromRaw (s : State) : Prop :=
  ∃ x y z c : Half, s.handle.r.toNat = normalizedValue x.toNat c.toNat ∧
    s.handle.g.toNat = normalizedValue y.toNat c.toNat ∧ s.handle.b.toNat = normalizedValue z.toNat c.toNat

/-- The events the block may ever emit under the parameters `c`: the complete list of R90 for the transport, delays of
`DELAY_MS` (R204), the three diagnostics of R89, and `Done`s. -/
def emittable (c : Params) : BlockEvent → Prop
  | .tReqRecv dev reg => dev = c.devAddr ∧
    reg ∈ [c.cmdBit ||| c.regId, c.cmdBit ||| c.regRdatal, c.cmdBit ||| c.regRdatah, c.cmdBit ||| c.regGdatal,
      c.cmdBit ||| c.regGdatah, c.cmdBit ||| c.regBdatal, c.cmdBit ||| c.regBdatah, c.cmdBit ||| c.regCdatal,
      c.cmdBit ||| c.regCdatah]
  | .tReqXmit dev reg val => dev = c.devAddr ∧
    (reg, val) ∈ [(c.cmdBit ||| c.regAtime, c.atime2_4ms), (c.cmdBit ||| c.regControl, c.gain1x),
      (c.cmdBit ||| c.regEnable, c.enPon), (c.cmdBit ||| c.regEnable, c.enPon ||| c.enAen)]
  | .dReq n => n = 3#8
  | .diag code info => (code = 0x01#8 ∧ info ≠ c.expectedId) ∨
    (code = 0x02#8 ∧ info ∈ [2#8, 4#8, 5#8, 7#8]) ∨
    (code = 0x03#8 ∧ ∀ data, ∃ e, decode info data = .error e)
  | .done _ _ => True

/-- Everything emitted so far is on that list. -/
def TraceWithinList (s : State) : Prop := ∀ e ∈ s.trace, emittable s.cfg e

/-- The invariant of the block: it holds at reset and every step keeps it. -/
structure State.Inv (s : State) : Prop where
  request : RequestMatchesSeq s
  readWord : ReadWordMatches s
  flags : FlagsDescribeLastInit s
  normalized : NormalizedFromRaw s
  trace : TraceWithinList s

/-- The transitions of `SEQ` that R25 allows in one step, staying put among them. -/
def seqMoves : Seq → List Seq
  | .idle => [.idle, .init1, .rdLo]
  | .init1 => [.init1, .init2, .idle]
  | .init2 => [.init2, .init3]
  | .init3 => [.init3, .init4]
  | .init4 => [.init4, .init5]
  | .init5 => [.init5, .init6]
  | .init6 => [.init6, .init7]
  | .init7 => [.init7, .init8]
  | .init8 => [.init8, .idle]
  | .rdLo => [.rdLo, .rdHi]
  | .rdHi => [.rdHi, .rdWait]
  | .rdWait => [.rdWait, .idle]

/-- The state with its hidden registers forgotten: what can be observed now or later (R31, U7). -/
def State.forgetHidden (s : State) : State := { s with hidden := Hidden.reset }

/-- An outcome with the hidden registers of its next state forgotten. -/
def forgetHidden : Host.Outcome State Fault Refusal → Host.Outcome State Fault Refusal
  | .next s => .next s.forgetHidden
  | .fault r => .fault r
  | .refused r => .refused r

/-- The state with `STATUS`'s stored flags replaced. -/
def State.withFlags (s : State) (f : Flags) : State := { s with flags := f }

/-- An outcome with the flags of its next state replaced. -/
def setFlags (f : Flags) : Host.Outcome State Fault Refusal → Host.Outcome State Fault Refusal
  | .next s => .next (s.withFlags f)
  | .fault r => .fault r
  | .refused r => .refused r

end Sys2Proof.Machine
end

