-- ==== Sys2Proof/Certificates/Slice0/Obligations.lean ====
section
/-! DEFINITION. The statements for the provers, from the numbered rules of spec/. In all of them the environment's
deliveries are the field `inbox` and the emitted events the field `trace` (log entries 1 and 2, the model's way of
carrying the events of spec/00_scope.md R15), and the parameters are the field `cfg` (log entry 3): each statement
holds for every choice of the three. -/

open Sys2Proof Sys2Proof.Machine

/-! ### Reset -/

/-- R34, R220: reset puts every piece of the block's state at its value, and the first command is accepted in the
first step after it. Nothing is said of the hidden registers, which R34 leaves unspecified. -/
def Obligations.ResetPutsEveryPieceAtItsValue : Prop :=
  (State.reset.seq = .idle ∧ State.reset.status = 0x00#8 ∧ State.reset.handle = ⟨0, 0, 0, 0, 0, 0, 0⟩ ∧
    State.reset.outstanding = none) ∧
  ∀ (s : State) (collaborators : Bool) (rest : List EnvEvent),
    s.inbox = .reset collaborators :: rest → s.outstanding = none ∨ collaborators = true →
    ∃ t, step s = .next t ∧ t.seq = .idle ∧ t.status = 0x00#8 ∧ t.handle = ⟨0, 0, 0, 0, 0, 0, 0⟩ ∧
      t.outstanding = none ∧ t.cfg = s.cfg ∧ t.inbox = rest ∧ t.trace = s.trace ∧
      ∀ c d i rest', rest = .cmd c d :: rest' → decode c d = .ok i → step t = exec i { t with inbox := rest' }

/-- R221, U5: a reset of the block alone while a request is outstanding is refused; with the collaborators reset too
the command in progress is abandoned without a `Done`. -/
def Obligations.ResetMidCommandNeedsCollaborators : Prop :=
  ∀ (s : State) (q : Request) (rest : List EnvEvent), s.outstanding = some q →
    (s.inbox = .reset false :: rest → step s = .refused (.resetLeavesRequestOutstanding q)) ∧
    (s.inbox = .reset true :: rest → ∃ t, step s = .next t ∧ t.seq = .idle ∧ t.outstanding = none ∧
      t.trace = s.trace)

/-! ### Steps, acceptance and refusal -/

/-- R82, R83: in `IDLE` a delivered command that decodes to `i` runs as `i`; the step only takes it off the list of
deliveries. -/
def Obligations.StepRunsDecodedCommand : Prop :=
  ∀ (s : State) (c : Byte) (d : Half) (i : Instr) (rest : List EnvEvent),
    s.seq = .idle → s.inbox = .cmd c d :: rest → decode c d = .ok i →
    step s = exec i { s with inbox := rest }

/-- The host's word placed for the next step (log entry 13) is run by it: for each instruction without operand bits
in the table, the step runs the instruction with the operand word zero. -/
def Obligations.StepRunsPlacedWord : Prop :=
  ∀ (s : State) (w : Nat) (i : Instr), decodeTableWord 8 w = some i →
    step (s.withFetchWord 8 w) = exec i { s with seq := .idle, outstanding := none }

/-- R83, R229: a command delivered while `SEQ` is not `IDLE` is not taken, not queued and not recorded, whatever its
word; and no instruction acts in such a state. -/
def Obligations.CommandWhileBusyIsNotTaken : Prop :=
  ∀ (s : State), s.seq ≠ .idle →
    (∀ c d rest, s.inbox = .cmd c d :: rest → step s = .next { s with inbox := rest }) ∧
    ∀ i, exec i s = .next s

/-- R196: a command in progress whose awaited event never comes leaves the block in its present state for ever, with
`BUSY` set and no `Done` emitted. -/
def Obligations.StuckForEver : Prop :=
  ∀ (s : State), s.stuck → ∀ k, ∃ t, run k s = .next t ∧ t.seq = s.seq ∧ t.status.getLsbD 7 = true ∧
    t.doneCount = s.doneCount ∧ t.stuck

/-- R197, R206, R221: no step ever faults, and a step is refused exactly when the next delivered event is one the
environment may not deliver in that state. That a command offered while busy counts among the events that may be
delivered (and is not taken) is the model's choice: R83, R237 and U10 give the host no such move (log entry 6; the
refusals are log entries 7 and 8). -/
def Obligations.StepRefusesExactlyForbiddenDeliveries : Prop :=
  ∀ (s : State), (∀ r, step s ≠ .fault r) ∧
    ((∃ t, step s = .next t) ↔ ∀ e rest, s.inbox = e :: rest → s.mayDeliver e = true)

/-- R206, U6: a response nobody asked for is refused by name. -/
def Obligations.UnsolicitedResponseIsRefused : Prop :=
  ∀ (s : State) (e : EnvEvent) (rest : List EnvEvent), s.inbox = e :: rest → s.mayDeliver e = false →
    (∀ b, e ≠ .reset b) → step s = .refused (.unsolicitedResponse s.seq e)

/-! ### Decoding -/

/-- R81: the fifteen command words, written out, decode to the fifteen commands, with the operand for the handle
loads only. -/
def Obligations.TableWordsDecode : Prop :=
  ∀ d : Half,
    decode 0x01#8 d = .ok .init ∧ decode 0x02#8 d = .ok .getrgb ∧ decode 0x03#8 d = .ok .detect ∧
    decode 0x04#8 d = .ok .getrawR ∧ decode 0x05#8 d = .ok .getrawG ∧ decode 0x06#8 d = .ok .getrawB ∧
    decode 0x07#8 d = .ok .getrawC ∧ decode 0x14#8 d = .ok .getrawcR ∧ decode 0x15#8 d = .ok .getrawcG ∧
    decode 0x16#8 d = .ok .getrawcB ∧ decode 0x17#8 d = .ok .getrawcC ∧ decode 0x08#8 d = .ok (.setrawR d) ∧
    decode 0x09#8 d = .ok (.setrawG d) ∧ decode 0x0A#8 d = .ok (.setrawB d) ∧ decode 0x0B#8 d = .ok (.setrawC d)

/-- R82, R85: exactly the fifteen words of R81 decode, and a word is illegal exactly when it is one of the words R85
lists. -/
def Obligations.IllegalWordsAreExactlyTheListed : Prop :=
  ∀ (c : Byte) (d : Half),
    ((∃ i, decode c d = .ok i) ↔ c ∈ [0x01#8, 0x02#8, 0x03#8, 0x04#8, 0x05#8, 0x06#8, 0x07#8, 0x08#8, 0x09#8,
      0x0A#8, 0x0B#8, 0x14#8, 0x15#8, 0x16#8, 0x17#8]) ∧
    ((∃ e, decode c d = .error e) ↔
      c.extractLsb' 5 3 ≠ 0#3 ∨ (c.getLsbD 4 = true ∧ c.extractLsb' 2 2 ≠ 1#2) ∨ c = 0x00#8 ∨
      c ∈ [0x0C#8, 0x0D#8, 0x0E#8, 0x0F#8])

/-- Decoding and encoding agree, both ways: the pair of a well-formed instruction decodes to it with every operand,
and whatever decodes to an instruction is its command word, with its operand where it takes one (R80, R81, R82). -/
def Obligations.DecodeEncodeAgree : Prop :=
  (∀ i : Instr, i.wellFormed = true → decode (encode i).1 (encode i).2 = .ok i) ∧
  (∀ (c : Byte) (d : Half) (i : Instr), decode c d = .ok i →
    i.wellFormed = true ∧ c = (encode i).1 ∧ (i.takesOperand = true → d = (encode i).2))

/-- R91, R92: each kind of line with the pairs it stands for, written out (the word of each command, `cmd_data` 0x0000
where there is no operand, `POLL` as its six commands and `LOAD` as its four, in order); the lines that are not legal
(an operand above 65535 in either kind of line, a `SETRAW` without one); a program is its lines one after the other;
and a program assembles exactly when its lines are legal, into pairs that all decode. -/
def Obligations.AssembledProgramDecodes : Prop :=
  (∀ (i : Instr) (c : Byte), (i, c) ∈ [(.init, 0x01#8), (.getrgb, 0x02#8), (.detect, 0x03#8), (.getrawR, 0x04#8),
      (.getrawG, 0x05#8), (.getrawB, 0x06#8), (.getrawC, 0x07#8), (.getrawcR, 0x14#8), (.getrawcG, 0x15#8),
      (.getrawcB, 0x16#8), (.getrawcC, 0x17#8)] → assemble [.plain i] = some [(c, 0x0000#16)]) ∧
  (∀ (ch : Channel) (c : Byte), (ch, c) ∈ [(.red, 0x08#8), (.green, 0x09#8), (.blue, 0x0A#8), (.clear, 0x0B#8)] →
    ∀ n : Nat, n ≤ 65535 → assemble [.load1 ch n] = some [(c, BitVec.ofNat 16 n)]) ∧
  assemble [.poll] =
    some [(0x14#8, 0#16), (0x15#8, 0#16), (0x16#8, 0#16), (0x17#8, 0#16), (0x02#8, 0#16), (0x03#8, 0#16)] ∧
  (∀ r g b c : Half, assemble [.load r.toNat g.toNat b.toNat c.toNat] =
    some [(0x08#8, r), (0x09#8, g), (0x0A#8, b), (0x0B#8, c)]) ∧
  (∀ (ch : Channel) (n : Nat), 65535 < n → assemble [.load1 ch n] = none) ∧
  (∀ r g b c : Nat, 65535 < r ∨ 65535 < g ∨ 65535 < b ∨ 65535 < c → assemble [.load r g b c] = none) ∧
  (∀ n : Half, assemble [.plain (.setrawR n)] = none ∧ assemble [.plain (.setrawG n)] = none ∧
    assemble [.plain (.setrawB n)] = none ∧ assemble [.plain (.setrawC n)] = none) ∧
  assemble [] = some [] ∧
  (∀ (l : AsmLine) (p : List AsmLine), assemble (l :: p) =
    match assemble [l], assemble p with
    | some ws, some vs => some (ws ++ vs)
    | _, _ => none) ∧
  (∀ p : List AsmLine,
    ((∃ ws, assemble p = some ws) ↔ ∀ l ∈ p,
      (∃ i, i ∈ [.init, .getrgb, .detect, .getrawR, .getrawG, .getrawB, .getrawC, .getrawcR, .getrawcG, .getrawcB,
        .getrawcC] ∧ l = .plain i) ∨
      (∃ ch n, n ≤ 65535 ∧ l = .load1 ch n) ∨ l = .poll ∨
      (∃ r g b c, r ≤ 65535 ∧ g ≤ 65535 ∧ b ≤ 65535 ∧ c ≤ 65535 ∧ l = .load r g b c)) ∧
    ∀ ws, assemble p = some ws → ∀ w ∈ ws, ∃ i, decode w.1 w.2 = .ok i)

/-- R86: an illegal word presented in `IDLE` is consumed with exactly these effects. -/
def Obligations.IllegalCommandEffects : Prop :=
  ∀ (s : State) (c : Byte) (d : Half) (e : DecodeError) (rest : List EnvEvent),
    s.seq = .idle → s.inbox = .cmd c d :: rest → decode c d = .error e →
    step s = .next { s with
      inbox := rest
      flags := { s.flags with ill := true }
      trace := s.trace ++ [.diag 0x03#8 c, .done c 0x0000#16] }

/-! ### INIT -/

/-- R111: the acceptance of `INIT`, by its word with any operand. -/
def Obligations.InitAccepted : Prop :=
  ∀ (s : State), s.seq = .idle →
    (∀ d rest, s.inbox = .cmd 0x01#8 d :: rest → step s = exec .init { s with inbox := rest }) ∧
    exec .init s = .next { s with
      seq := .init1
      flags := { s.flags with dnd := false, txfAtime := false, txfGain := false, txfPon := false, txfAen := false }
      outstanding := some (.recv s.cfg.devAddr (s.cfg.cmdBit ||| s.cfg.regId))
      trace := s.trace ++ [.tReqRecv s.cfg.devAddr (s.cfg.cmdBit ||| s.cfg.regId)] }

/-- R112: the ID check, which either goes on to the integration-time write or aborts. -/
def Obligations.InitIdCheck : Prop :=
  ∀ (s : State) (id : Byte) (rest : List EnvEvent), s.seq = .init1 → s.inbox = .tRspByte id :: rest →
    (id = s.cfg.expectedId → step s = .next { s with
      inbox := rest
      seq := .init2
      outstanding := some (.xmit s.cfg.devAddr (s.cfg.cmdBit ||| s.cfg.regAtime) s.cfg.atime2_4ms)
      trace := s.trace ++ [.tReqXmit s.cfg.devAddr (s.cfg.cmdBit ||| s.cfg.regAtime) s.cfg.atime2_4ms] }) ∧
    (id ≠ s.cfg.expectedId → step s = .next { s with
      inbox := rest
      seq := .idle
      outstanding := none
      flags := { s.flags with dnd := true }
      trace := s.trace ++ [.diag 0x01#8 id, .done 0x01#8 0x0000#16] })

/-- R113, R115, R116, R118: the four writes of `INIT`; a non-zero status sets the step's flag and emits its `Diag`,
and the sequence goes on the same either way. -/
def Obligations.InitWriteSteps : Prop :=
  ∀ (s : State) (st : Byte) (rest : List EnvEvent), s.inbox = .tRspStatus st :: rest →
    (s.seq = .init2 → step s = .next { s with
      inbox := rest
      seq := .init3
      outstanding := some (.delay 3#8)
      flags := { s.flags with txfAtime := s.flags.txfAtime || st != 0#8 }
      trace := s.trace ++ (if st = 0#8 then [] else [.diag 0x02#8 2#8]) ++ [.dReq 3#8] }) ∧
    (s.seq = .init4 → step s = .next { s with
      inbox := rest
      seq := .init5
      outstanding := some (.xmit s.cfg.devAddr (s.cfg.cmdBit ||| s.cfg.regEnable) s.cfg.enPon)
      flags := { s.flags with txfGain := s.flags.txfGain || st != 0#8 }
      trace := s.trace ++ (if st = 0#8 then [] else [.diag 0x02#8 4#8]) ++
        [.tReqXmit s.cfg.devAddr (s.cfg.cmdBit ||| s.cfg.regEnable) s.cfg.enPon] }) ∧
    (s.seq = .init5 → step s = .next { s with
      inbox := rest
      seq := .init6
      outstanding := some (.delay 3#8)
      flags := { s.flags with txfPon := s.flags.txfPon || st != 0#8 }
      trace := s.trace ++ (if st = 0#8 then [] else [.diag 0x02#8 5#8]) ++ [.dReq 3#8] }) ∧
    (s.seq = .init7 → step s = .next { s with
      inbox := rest
      seq := .init8
      outstanding := some (.delay 3#8)
      flags := { s.flags with txfAen := s.flags.txfAen || st != 0#8 }
      trace := s.trace ++ (if st = 0#8 then [] else [.diag 0x02#8 7#8]) ++ [.dReq 3#8] })

/-- R114, R117, R119: the three ends of a delay inside `INIT`; and `INIT_DONE` is set by the last of them and by no
other step. -/
def Obligations.InitDelaySteps : Prop :=
  (∀ s t : State, step s = .next t → s.flags.initDone = false → t.flags.initDone = true →
    s.seq = .init8 ∧ ∃ rest, s.inbox = .dDone :: rest) ∧
  ∀ (s : State) (rest : List EnvEvent), s.inbox = .dDone :: rest →
    (s.seq = .init3 → step s = .next { s with
      inbox := rest
      seq := .init4
      outstanding := some (.xmit s.cfg.devAddr (s.cfg.cmdBit ||| s.cfg.regControl) s.cfg.gain1x)
      trace := s.trace ++ [.tReqXmit s.cfg.devAddr (s.cfg.cmdBit ||| s.cfg.regControl) s.cfg.gain1x] }) ∧
    (s.seq = .init6 → step s = .next { s with
      inbox := rest
      seq := .init7
      outstanding := some (.xmit s.cfg.devAddr (s.cfg.cmdBit ||| s.cfg.regEnable) (s.cfg.enPon ||| s.cfg.enAen))
      trace := s.trace ++
        [.tReqXmit s.cfg.devAddr (s.cfg.cmdBit ||| s.cfg.regEnable) (s.cfg.enPon ||| s.cfg.enAen)] }) ∧
    (s.seq = .init8 → step s = .next { s with
      inbox := rest
      seq := .idle
      outstanding := none
      flags := { s.flags with initDone := true }
      trace := s.trace ++ [.done 0x01#8 0x0000#16] })

/-- R122 case A, with R110 and R120: the complete run of an `INIT` whose ID matches, for every choice of the four
statuses: its trace in order, and the flags it leaves. -/
def Obligations.InitRunOnMatch : Prop :=
  ∀ (s : State) (d : Half) (s2 s4 s5 s7 : Byte) (rest : List EnvEvent), s.seq = .idle →
    s.inbox = [.cmd 0x01#8 d, .tRspByte s.cfg.expectedId, .tRspStatus s2, .dDone, .tRspStatus s4, .tRspStatus s5,
      .dDone, .tRspStatus s7, .dDone] ++ rest →
    run 9 s = .next { s with
      inbox := rest
      seq := .idle
      outstanding := none
      flags := ⟨true, false, s2 != 0#8, s4 != 0#8, s5 != 0#8, s7 != 0#8, s.flags.ill⟩
      trace := s.trace ++
        [.tReqRecv s.cfg.devAddr (s.cfg.cmdBit ||| s.cfg.regId),
          .tReqXmit s.cfg.devAddr (s.cfg.cmdBit ||| s.cfg.regAtime) s.cfg.atime2_4ms] ++
        (if s2 = 0#8 then [] else [.diag 0x02#8 2#8]) ++
        [.dReq 3#8, .tReqXmit s.cfg.devAddr (s.cfg.cmdBit ||| s.cfg.regControl) s.cfg.gain1x] ++
        (if s4 = 0#8 then [] else [.diag 0x02#8 4#8]) ++
        [.tReqXmit s.cfg.devAddr (s.cfg.cmdBit ||| s.cfg.regEnable) s.cfg.enPon] ++
        (if s5 = 0#8 then [] else [.diag 0x02#8 5#8]) ++
        [.dReq 3#8, .tReqXmit s.cfg.devAddr (s.cfg.cmdBit ||| s.cfg.regEnable) (s.cfg.enPon ||| s.cfg.enAen)] ++
        (if s7 = 0#8 then [] else [.diag 0x02#8 7#8]) ++
        [.dReq 3#8, .done 0x01#8 0x0000#16] }

/-- R122 case B, with R112 and R191: the complete run of an `INIT` whose ID does not match; no transmit, no delay, and
`INIT_DONE` as it was (R27). -/
def Obligations.InitRunOnMismatch : Prop :=
  ∀ (s : State) (d : Half) (id : Byte) (rest : List EnvEvent), s.seq = .idle →
    s.inbox = [.cmd 0x01#8 d, .tRspByte id] ++ rest → id ≠ s.cfg.expectedId →
    run 2 s = .next { s with
      inbox := rest
      seq := .idle
      outstanding := none
      flags := ⟨s.flags.initDone, true, false, false, false, false, s.flags.ill⟩
      trace := s.trace ++
        [.tReqRecv s.cfg.devAddr (s.cfg.cmdBit ||| s.cfg.regId), .diag 0x01#8 id, .done 0x01#8 0x0000#16] }

/-! ### Raw channel reads -/

/-- R139: the acceptance of each of the eight raw reads, by its word with any operand; `LO` and `VAL` are not written
by it. -/
def Obligations.RawReadAccepted : Prop :=
  ∀ (s : State), s.seq = .idle →
    ∀ (i : Instr) (c : Byte) (capf : Bool) (ch : Channel) (low : Byte),
      (i, c, capf, ch, low) ∈
        [(.getrawR, 0x04#8, false, .red, s.cfg.regRdatal), (.getrawG, 0x05#8, false, .green, s.cfg.regGdatal),
         (.getrawB, 0x06#8, false, .blue, s.cfg.regBdatal), (.getrawC, 0x07#8, false, .clear, s.cfg.regCdatal),
         (.getrawcR, 0x14#8, true, .red, s.cfg.regRdatal), (.getrawcG, 0x15#8, true, .green, s.cfg.regGdatal),
         (.getrawcB, 0x16#8, true, .blue, s.cfg.regBdatal), (.getrawcC, 0x17#8, true, .clear, s.cfg.regCdatal)] →
      (∀ d rest, s.inbox = .cmd c d :: rest → step s = exec i { s with inbox := rest }) ∧
      exec i s = .next { s with
        seq := .rdLo
        hidden := { s.hidden with ch := ch, capf := capf, cmd := c }
        outstanding := some (.recv s.cfg.devAddr (s.cfg.cmdBit ||| low))
        trace := s.trace ++ [.tReqRecv s.cfg.devAddr (s.cfg.cmdBit ||| low)] }

/-- R140, R141, R142: the three steps of a raw read after its acceptance. -/
def Obligations.RawReadSteps : Prop :=
  ∀ (s : State) (rest : List EnvEvent),
    (∀ b (high : Byte), s.seq = .rdLo → s.inbox = .tRspByte b :: rest →
      (s.hidden.ch, high) ∈ [(Channel.red, s.cfg.regRdatah), (.green, s.cfg.regGdatah),
        (.blue, s.cfg.regBdatah), (.clear, s.cfg.regCdatah)] →
      step s = .next { s with
        inbox := rest
        seq := .rdHi
        hidden := { s.hidden with lo := b }
        outstanding := some (.recv s.cfg.devAddr (s.cfg.cmdBit ||| high))
        trace := s.trace ++ [.tReqRecv s.cfg.devAddr (s.cfg.cmdBit ||| high)] }) ∧
    (∀ b, s.seq = .rdHi → s.inbox = .tRspByte b :: rest →
      step s = .next { s with
        inbox := rest
        seq := .rdWait
        hidden := { s.hidden with val := b ++ s.hidden.lo }
        outstanding := some (.delay 3#8)
        trace := s.trace ++ [.dReq 3#8] }) ∧
    (s.seq = .rdWait → s.inbox = .dDone :: rest →
      step s = .next { s with
        inbox := rest
        seq := .idle
        outstanding := none
        handle :=
          if s.hidden.capf = false then s.handle
          else match s.hidden.ch with
            | .red => { s.handle with rRaw := s.hidden.val }
            | .green => { s.handle with gRaw := s.hidden.val }
            | .blue => { s.handle with bRaw := s.hidden.val }
            | .clear => { s.handle with cRaw := s.hidden.val }
        trace := s.trace ++ [.done s.hidden.cmd s.hidden.val] })

/-- R130 to R138: the complete run of each raw read: low byte, high byte, delay, `Done` with `(high << 8) | low`,
and for the capturing reads the value in the channel's raw register, which holds its old value until the step that
ends the command. The result is the same whatever `INIT_DONE` (R28). That `CH`, `CAPF`, `LO`, `VAL` and the remembered
word keep in `IDLE` what they last held is the model's choice (log entry 5): R32 and U7 leave it open. -/
def Obligations.RawReadRun : Prop :=
  ∀ (s : State) (d : Half) (lo hi : Byte) (rest : List EnvEvent)
    (c : Byte) (capf : Bool) (ch : Channel) (low high : Byte),
    s.seq = .idle → s.inbox = [.cmd c d, .tRspByte lo, .tRspByte hi, .dDone] ++ rest →
    (c, capf, ch, low, high) ∈
      [(0x04#8, false, Channel.red, s.cfg.regRdatal, s.cfg.regRdatah),
       (0x05#8, false, .green, s.cfg.regGdatal, s.cfg.regGdatah),
       (0x06#8, false, .blue, s.cfg.regBdatal, s.cfg.regBdatah),
       (0x07#8, false, .clear, s.cfg.regCdatal, s.cfg.regCdatah),
       (0x14#8, true, .red, s.cfg.regRdatal, s.cfg.regRdatah),
       (0x15#8, true, .green, s.cfg.regGdatal, s.cfg.regGdatah),
       (0x16#8, true, .blue, s.cfg.regBdatal, s.cfg.regBdatah),
       (0x17#8, true, .clear, s.cfg.regCdatal, s.cfg.regCdatah)] →
    (∀ k, k < 4 → ∃ t, run k s = .next t ∧ t.handle = s.handle) ∧
    run 4 s = .next { s with
      inbox := rest
      outstanding := none
      handle :=
        match capf, ch with
        | false, _ => s.handle
        | true, .red => { s.handle with rRaw := hi ++ lo }
        | true, .green => { s.handle with gRaw := hi ++ lo }
        | true, .blue => { s.handle with bRaw := hi ++ lo }
        | true, .clear => { s.handle with cRaw := hi ++ lo }
      hidden := ⟨ch, capf, lo, hi ++ lo, c⟩
      trace := s.trace ++
        [.tReqRecv s.cfg.devAddr (s.cfg.cmdBit ||| low), .tReqRecv s.cfg.devAddr (s.cfg.cmdBit ||| high),
         .dReq 3#8, .done c (hi ++ lo)] }

/-- R144: any 16-bit value can result from a raw read, in any idle state and for every channel. -/
def Obligations.AnyReadingCanResult : Prop :=
  ∀ (s : State) (v : Half) (c : Byte), s.seq = .idle →
    c ∈ [0x04#8, 0x05#8, 0x06#8, 0x07#8, 0x14#8, 0x15#8, 0x16#8, 0x17#8] →
    ∃ (answers : List EnvEvent) (k : Nat) (t : State),
      run k { s with inbox := .cmd c 0#16 :: answers } = .next t ∧ t.seq = .idle ∧
      t.trace.getLast? = some (.done c v)

/-! ### Normalization -/

/-- R150, R152: `GETRGB`, by its word with any operand, writes the three normalized registers together from the raw
registers as they stood, or zero when `C_RAW` is 0, and nothing else but its `Done`. -/
def Obligations.GetrgbNormalizes : Prop :=
  ∀ (s : State), s.seq = .idle →
    (∀ d rest, s.inbox = .cmd 0x02#8 d :: rest → step s = exec .getrgb { s with inbox := rest }) ∧
    (s.handle.cRaw = 0#16 → exec .getrgb s = .next { s with
      handle := { s.handle with r := 0#40, g := 0#40, b := 0#40 }
      trace := s.trace ++ [.done 0x02#8 0x0000#16] }) ∧
    (s.handle.cRaw ≠ 0#16 → exec .getrgb s = .next { s with
      handle := { s.handle with
        r := BitVec.ofNat 40 (s.handle.rRaw.toNat * 255 * 2 ^ 16 / s.handle.cRaw.toNat)
        g := BitVec.ofNat 40 (s.handle.gRaw.toNat * 255 * 2 ^ 16 / s.handle.cRaw.toNat)
        b := BitVec.ofNat 40 (s.handle.bRaw.toNat * 255 * 2 ^ 16 / s.handle.cRaw.toNat) }
      trace := s.trace ++ [.done 0x02#8 0x0000#16] })

/-- R151, R155: `Norm` is the exact floor: nothing overflows 40 bits, the exact quotient lies in [Norm, Norm + 1)
units of 2^-16, and where `c` divides the product the result is exact. -/
def Obligations.NormIsExactFloor : Prop :=
  ∀ x c : Half, c ≠ 0#16 →
    x.toNat * 255 * 65536 < 2 ^ 40 ∧
    (normValue x c).toNat = x.toNat * 255 * 65536 / c.toNat ∧
    (normValue x c).toNat * c.toNat ≤ x.toNat * 255 * 65536 ∧
    x.toNat * 255 * 65536 < ((normValue x c).toNat + 1) * c.toNat ∧
    (c.toNat ∣ x.toNat * 255 * 65536 → (normValue x c).toNat * c.toNat = x.toNat * 255 * 65536)

/-- R153: no clamp: the value is at most 255.0 exactly when the raw value is at most `C_RAW`, equal exactly when
equal; the largest value is `Norm(65535, 1)` and the smallest non-zero one `Norm(1, 65535)`. -/
def Obligations.NormIsNotClamped : Prop :=
  (∀ x c : Half, c ≠ 0#16 →
    (normValue x c ≤ 0x0000FF0000#40 ↔ x ≤ c) ∧ (normValue x c = 0x0000FF0000#40 ↔ x = c) ∧
    normValue x c ≤ normValue 65535#16 1#16 ∧ (normValue x c ≠ 0#40 → normValue 1#16 65535#16 ≤ normValue x c)) ∧
  normValue 65535#16 1#16 = 0xFEFF010000#40 ∧ normValue 1#16 65535#16 = 0x00000000FF#40

/-- R157: order is preserved exactly. -/
def Obligations.NormPreservesOrder : Prop :=
  ∀ x y c : Half, c ≠ 0#16 →
    (normValue y c < normValue x c ↔ y < x) ∧ (normValue x c = normValue y c ↔ x = y)

/-- R156: the normalized registers after `GETRGB` depend on the four raw registers only, and a second `GETRGB` without
a raw write between gives the same three values. -/
def Obligations.GetrgbDependsOnRawOnly : Prop :=
  ∀ (s s' t t' u : State), s.seq = .idle → s'.seq = .idle →
    s.handle.rRaw = s'.handle.rRaw → s.handle.gRaw = s'.handle.gRaw → s.handle.bRaw = s'.handle.bRaw →
    s.handle.cRaw = s'.handle.cRaw →
    exec .getrgb s = .next t → exec .getrgb s' = .next t' → exec .getrgb t = .next u →
    t.handle = t'.handle ∧ u.handle = t.handle

/-! ### Classification -/

/-- R160, R161, R162, R88: `DETECT`, by its word with any operand: the comparison chain, on unsigned numbers and
strict throughout, with 2 in the BLUE branch; only the `Done` carries the verdict. -/
def Obligations.DetectClassifies : Prop :=
  ∀ (s : State) (v : Half), s.seq = .idle →
    (∀ d rest, s.inbox = .cmd 0x03#8 d :: rest → step s = exec .detect { s with inbox := rest }) ∧
    (v = (if s.handle.r.toNat > s.handle.g.toNat ∧ s.handle.r.toNat > s.handle.b.toNat ∧
          s.handle.rRaw.toNat > s.cfg.minRaw.toNat then 0#16
        else if s.handle.g.toNat > s.handle.r.toNat ∧ s.handle.g.toNat > s.handle.b.toNat ∧
          s.handle.gRaw.toNat > s.cfg.minRaw.toNat then 1#16
        else if s.handle.b.toNat > s.handle.r.toNat ∧ s.handle.b.toNat > s.handle.g.toNat ∧
          s.handle.bRaw.toNat > 2 then 2#16
        else 3#16) →
    exec .detect s = .next { s with trace := s.trace ++ [.done 0x03#8 v] })

/-- R163, R164: each colour is answered exactly when its channel strictly dominates and passes its own threshold, so
the order of the branches does not matter; a tie of the two largest registers gives NOTHING. -/
def Obligations.VerdictIndependentOfBranchOrder : Prop :=
  ∀ (m : Half) (h : Handle),
    (classify m h = .red ↔ h.g < h.r ∧ h.b < h.r ∧ m < h.rRaw) ∧
    (classify m h = .green ↔ h.r < h.g ∧ h.b < h.g ∧ m < h.gRaw) ∧
    (classify m h = .blue ↔ h.r < h.b ∧ h.g < h.b ∧ 2#16 < h.bRaw) ∧
    (h.b ≤ h.r ∧ h.r = h.g ∨ h.g ≤ h.r ∧ h.r = h.b ∨ h.r ≤ h.g ∧ h.g = h.b → classify m h = .nothing)

/-- R166: `DETECT` is pure: two idle states with the same six registers and the same `MIN_RAW` answer the same
verdict, it writes nothing, and repeating it answers the same again. -/
def Obligations.DetectIsPure : Prop :=
  ∀ (s s' : State) (w w' : List BlockEvent) (t t' : State), s.seq = .idle → s'.seq = .idle →
    s.cfg.minRaw = s'.cfg.minRaw →
    s.handle.r = s'.handle.r → s.handle.g = s'.handle.g → s.handle.b = s'.handle.b →
    s.handle.rRaw = s'.handle.rRaw → s.handle.gRaw = s'.handle.gRaw → s.handle.bRaw = s'.handle.bRaw →
    exec .detect s = .next t → exec .detect s' = .next t' →
    t.trace = s.trace ++ w → t'.trace = s'.trace ++ w' →
    w = w' ∧ t = { s with trace := t.trace } ∧ exec .detect t = .next { t with trace := t.trace ++ w }

/-- R165: on a handle that `GETRGB` has just normalized, and in any later idle state with that handle, the verdict is
a function of the raw registers. -/
def Obligations.ConsistentVerdictFromRaw : Prop :=
  ∀ (s t u : State) (v : Half), s.seq = .idle → exec .getrgb s = .next t → u.seq = .idle → u.handle = t.handle →
    v = (if u.handle.cRaw = 0#16 then 3#16
        else if u.handle.rRaw > u.handle.gRaw ∧ u.handle.rRaw > u.handle.bRaw ∧ u.handle.rRaw > u.cfg.minRaw then 0#16
        else if u.handle.gRaw > u.handle.rRaw ∧ u.handle.gRaw > u.handle.bRaw ∧ u.handle.gRaw > u.cfg.minRaw then 1#16
        else if u.handle.bRaw > u.handle.rRaw ∧ u.handle.bRaw > u.handle.gRaw ∧ u.handle.bRaw > 2#16 then 2#16
        else 3#16) →
    exec .detect u = .next { u with trace := u.trace ++ [.done 0x03#8 v] }

/-! ### Handle loads -/

/-- R180 to R183: each `SETRAW`, by its word, stores its operand in its raw register and emits its `Done`; nothing else
changes. -/
def Obligations.SetrawStores : Prop :=
  ∀ (s : State) (n : Half), s.seq = .idle →
    (∀ (c : Byte) (i : Instr) (rest : List EnvEvent),
      (c, i) ∈ [(0x08#8, Instr.setrawR n), (0x09#8, .setrawG n), (0x0A#8, .setrawB n), (0x0B#8, .setrawC n)] →
      s.inbox = .cmd c n :: rest → step s = exec i { s with inbox := rest }) ∧
    exec (.setrawR n) s = .next { s with
      handle := { s.handle with rRaw := n }, trace := s.trace ++ [.done 0x08#8 0x0000#16] } ∧
    exec (.setrawG n) s = .next { s with
      handle := { s.handle with gRaw := n }, trace := s.trace ++ [.done 0x09#8 0x0000#16] } ∧
    exec (.setrawB n) s = .next { s with
      handle := { s.handle with bRaw := n }, trace := s.trace ++ [.done 0x0A#8 0x0000#16] } ∧
    exec (.setrawC n) s = .next { s with
      handle := { s.handle with cRaw := n }, trace := s.trace ++ [.done 0x0B#8 0x0000#16] }

/-! ### Frames. The block has no memory (R50), so a frame speaks of its registers only. -/

/-- Frame of the accepting step of `INIT` (R110, R111): no handle register, no hidden register, and of `STATUS` only
bits 1 to 5. -/
def Obligations.InitFrame : Prop :=
  ∀ s t : State, exec .init s = .next t →
    t.handle = s.handle ∧ t.hidden = s.hidden ∧ t.flags.initDone = s.flags.initDone ∧ t.flags.ill = s.flags.ill ∧
    t.cfg = s.cfg ∧ t.inbox = s.inbox

/-- Frame of the accepting step of the eight raw reads (R130, R139): no handle register, no flag; of the hidden
registers `LO` and `VAL` are kept. -/
def Obligations.RawReadFrame : Prop :=
  ∀ (s t : State) (i : Instr), i ∈ [.getrawR, .getrawG, .getrawB, .getrawC, .getrawcR, .getrawcG, .getrawcB,
    .getrawcC] → exec i s = .next t →
    t.handle = s.handle ∧ t.flags = s.flags ∧ t.hidden.lo = s.hidden.lo ∧ t.hidden.val = s.hidden.val ∧
    t.cfg = s.cfg ∧ t.inbox = s.inbox

/-- Frame of the commands that complete in one step (R25, R150, R160, R180 to R183): the sequencer, the outstanding
request, every flag and every hidden register are kept; `GETRGB` keeps the raw registers, `DETECT` the whole handle,
and each `SETRAW` every register but its own. -/
def Obligations.AtomicCommandFrame : Prop :=
  ∀ (s t : State) (i : Instr), exec i s = .next t →
    (i = .getrgb ∨ i = .detect ∨ ∃ n, i = .setrawR n ∨ i = .setrawG n ∨ i = .setrawB n ∨ i = .setrawC n) →
    t.seq = s.seq ∧ t.outstanding = s.outstanding ∧ t.flags = s.flags ∧ t.hidden = s.hidden ∧ t.cfg = s.cfg ∧
    t.inbox = s.inbox ∧
    (i = .detect → t.handle = s.handle) ∧
    ((∃ n, i = .setrawR n) ∨ t.handle.rRaw = s.handle.rRaw) ∧
    ((∃ n, i = .setrawG n) ∨ t.handle.gRaw = s.handle.gRaw) ∧
    ((∃ n, i = .setrawB n) ∨ t.handle.bRaw = s.handle.bRaw) ∧
    ((∃ n, i = .setrawC n) ∨ t.handle.cRaw = s.handle.cRaw) ∧
    (i = .getrgb ∨ t.handle.r = s.handle.r ∧ t.handle.g = s.handle.g ∧ t.handle.b = s.handle.b)

/-! ### Whole-machine rules, over every step -/

/-- R184: a handle register changes only in the accepting step of a `SETRAW`, in that of `GETRGB`, in the ending step
of a `GETRAWC`, and at reset; and there only as those rules say. -/
def Obligations.HandleChangesOnlyWhereListed : Prop :=
  ∀ s t : State, step s = .next t →
    t.handle = s.handle ∨
    (∃ b rest, s.inbox = .reset b :: rest ∧ t.handle = ⟨0, 0, 0, 0, 0, 0, 0⟩) ∨
    (s.seq = .idle ∧ ∃ c n rest, s.inbox = .cmd c n :: rest ∧
      ((c = 0x08#8 ∧ t.handle = { s.handle with rRaw := n }) ∨
       (c = 0x09#8 ∧ t.handle = { s.handle with gRaw := n }) ∨
       (c = 0x0A#8 ∧ t.handle = { s.handle with bRaw := n }) ∨
       (c = 0x0B#8 ∧ t.handle = { s.handle with cRaw := n }) ∨
       (c = 0x02#8 ∧ t.handle = { s.handle with r := t.handle.r, g := t.handle.g, b := t.handle.b }))) ∨
    (s.seq = .rdWait ∧ s.hidden.capf = true ∧ ∃ rest, s.inbox = .dDone :: rest ∧
      ((s.hidden.ch = .red ∧ t.handle = { s.handle with rRaw := s.hidden.val }) ∨
       (s.hidden.ch = .green ∧ t.handle = { s.handle with gRaw := s.hidden.val }) ∨
       (s.hidden.ch = .blue ∧ t.handle = { s.handle with bRaw := s.hidden.val }) ∨
       (s.hidden.ch = .clear ∧ t.handle = { s.handle with cRaw := s.hidden.val })))

/-- R26: what sets and what clears each stored bit of `STATUS`, for every step that is not a reset, and the layout of
the register. -/
def Obligations.StatusBitsFollowTheTable : Prop :=
  (∀ (s : State), s.status.getLsbD 0 = s.flags.initDone ∧ s.status.getLsbD 1 = s.flags.dnd ∧
    s.status.getLsbD 2 = s.flags.txfAtime ∧ s.status.getLsbD 3 = s.flags.txfGain ∧
    s.status.getLsbD 4 = s.flags.txfPon ∧ s.status.getLsbD 5 = s.flags.txfAen ∧
    s.status.getLsbD 6 = s.flags.ill ∧ (s.status.getLsbD 7 = true ↔ s.seq ≠ .idle)) ∧
  (∀ (s t : State) (e : EnvEvent) (rest : List EnvEvent) (acceptsInit : Bool),
    step s = .next t → s.inbox = e :: rest → (∀ b, e ≠ .reset b) →
    (acceptsInit = true ↔ s.seq = .idle ∧ ∃ d, e = .cmd 0x01#8 d) →
    (t.flags.initDone = true ↔ s.flags.initDone = true ∨ s.seq = .init8 ∧ e = .dDone) ∧
    (t.flags.dnd = true ↔ acceptsInit = false ∧
      (s.flags.dnd = true ∨ s.seq = .init1 ∧ ∃ b, e = .tRspByte b ∧ b ≠ s.cfg.expectedId)) ∧
    (t.flags.txfAtime = true ↔ acceptsInit = false ∧
      (s.flags.txfAtime = true ∨ s.seq = .init2 ∧ ∃ st, e = .tRspStatus st ∧ st ≠ 0#8)) ∧
    (t.flags.txfGain = true ↔ acceptsInit = false ∧
      (s.flags.txfGain = true ∨ s.seq = .init4 ∧ ∃ st, e = .tRspStatus st ∧ st ≠ 0#8)) ∧
    (t.flags.txfPon = true ↔ acceptsInit = false ∧
      (s.flags.txfPon = true ∨ s.seq = .init5 ∧ ∃ st, e = .tRspStatus st ∧ st ≠ 0#8)) ∧
    (t.flags.txfAen = true ↔ acceptsInit = false ∧
      (s.flags.txfAen = true ∨ s.seq = .init7 ∧ ∃ st, e = .tRspStatus st ∧ st ≠ 0#8)) ∧
    (t.flags.ill = true ↔ s.flags.ill = true ∨
      s.seq = .idle ∧ ∃ c d x, e = .cmd c d ∧ decode c d = .error x))

/-- R27, R222: over any run without a reset, `INIT_DONE` and `ILL`, once set, stay set; and whatever a run does, the
parameters stay as they are. -/
def Obligations.OnlyResetClearsInitDone : Prop :=
  ∀ (k : Nat) (s t : State), run k s = .next t →
    t.cfg = s.cfg ∧
    ((∀ b, EnvEvent.reset b ∉ s.inbox) →
      (s.flags.initDone = true → t.flags.initDone = true) ∧ (s.flags.ill = true → t.flags.ill = true))

/-- R25: `SEQ` moves along its table only; a reset aside there is no other transition. -/
def Obligations.SeqMovesAlongItsTable : Prop :=
  ∀ s t : State, step s = .next t → (∀ b rest, s.inbox ≠ .reset b :: rest) → t.seq ∈ seqMoves s.seq

/-- R61: a step emits at most two events and at most one request; a request it emits is the one then outstanding, and
it is issued only on the acceptance of a command or on the answer the state awaited. -/
def Obligations.OneRequestAtATime : Prop :=
  ∀ s t : State, step s = .next t →
    ∃ new, t.trace = s.trace ++ new ∧ new.length ≤ 2 ∧
      ∀ q : Request, q.event ∈ new → t.outstanding = some q ∧ new.count q.event = 1 ∧
        (∀ q' : Request, q'.event ∈ new → q' = q) ∧
        ∃ e rest, s.inbox = e :: rest ∧
          ((s.seq = .idle ∧ ∃ c d, e = .cmd c d) ∨
           (s.seq ≠ .idle ∧ s.mayDeliver e = true ∧ (∀ c d, e ≠ .cmd c d) ∧ ∀ b, e ≠ .reset b))

/-- R87, R238: a step that is not a reset emits exactly one `Done` when it ends a command (a command's sequence
returning to `IDLE`, or an atomic command), and none otherwise: the commands accepted are the `Done`s emitted plus the
command in progress. -/
def Obligations.OneDonePerAcceptedCommand : Prop :=
  ∀ (s t : State) (e : EnvEvent) (rest : List EnvEvent), step s = .next t → s.inbox = e :: rest →
    (∀ b, e ≠ .reset b) →
    t.doneCount = s.doneCount + (if t.seq = .idle then 1 else 0) ∧
    t.doneCount + (if t.seq = .idle then 0 else 1) =
      s.doneCount + (if s.seq = .idle then 0 else 1) +
      (match e with | .cmd _ _ => if s.seq = .idle then 1 else 0 | _ => 0)

/-- Every command ends: with eight answers in hand a command in progress reaches `IDLE`, with its one `Done`, within
eight steps, unless an answer comes that the state then reached does not await, and which is refused for that (R25,
R205, R206; that the collaborators answer at all is a premise). -/
def Obligations.CommandEndsWithinEightAnswers : Prop :=
  ∀ (s : State) (answers rest : List EnvEvent), s.seq ≠ .idle → s.inbox = answers ++ rest → answers.length = 8 →
    (∀ e ∈ answers, (∀ c d, e ≠ .cmd c d) ∧ ∀ b, e ≠ .reset b) →
    (∃ k t, k ≤ 8 ∧ run k s = .next t ∧ t.seq = .idle ∧ t.doneCount = s.doneCount + 1) ∨
    ∃ k u e l, k < 8 ∧ run k s = .next u ∧ u.seq ≠ .idle ∧ u.inbox = e :: l ∧ u.mayDeliver e = false ∧
      step u = .refused (.unsolicitedResponse u.seq e)

/-- R24, R25, R87: with exactly the awaited answers delivered, a command in progress ends with the last of them and not
before: it is then in `IDLE` with no request outstanding and one `Done` more. -/
def Obligations.AwaitedAnswersEndTheCommand : Prop :=
  ∀ (s : State) (answers rest : List EnvEvent), s.seq ≠ .idle → s.inbox = answers ++ rest →
    answersToEnd s.cfg.expectedId s.seq answers = true →
    (∃ t, run answers.length s = .next t ∧ t.seq = .idle ∧ t.outstanding = none ∧ t.inbox = rest ∧
      t.doneCount = s.doneCount + 1) ∧
    ∀ k, k < answers.length → ∃ u, run k s = .next u ∧ u.seq ≠ .idle ∧ u.doneCount = s.doneCount

/-- R205: under any environment over unlimited time in which every delay awaited is completed at some time, the transport
answers every call awaited at some time (the premise a claim must state), and nothing is delivered that may not be, nor
a reset, the command in progress ends in `IDLE` with its one `Done`, however long each answer takes. -/
def Obligations.FairEnvironmentEndsTheCommand : Prop :=
  ∀ (env : Environment) (s : State), s.seq ≠ .idle → DelaysComplete env s → TransportAnswers env s →
    DeliversWhatItMay env s →
    ∃ k t, runUnder env s k = .next t ∧ t.seq = .idle ∧ t.doneCount = s.doneCount + 1 ∧
      ∀ j, j < k → ∃ u, runUnder env s j = .next u ∧ u.seq ≠ .idle ∧ u.doneCount = s.doneCount

/-! ### Programs and the end of a run -/

/-- R238: the run of a program is over exactly when it stands in `IDLE`; no request is then outstanding, it has a final
state and an observation with as many `Done`s as commands; and while `SEQ` is not `IDLE` a request is outstanding and
there is no final state, so a stuck run never has one. -/
def Obligations.RunIsOverExactlyInIdle : Prop :=
  ∀ (p : Program) (s t : State), Running p s t →
    (RunOver p s t ↔ t.seq = .idle) ∧
    (RunOver p s t → t.outstanding = none ∧ FinalState p s t (t.handle, t.status) ∧
      ∃ w, RunObservation p s t (w, t.handle, t.status) ∧ w.countP BlockEvent.isDone = p.length) ∧
    (t.seq ≠ .idle → t.outstanding ≠ none ∧ t.doneCount + 1 = s.doneCount + p.length ∧ ∀ f, ¬ FinalState p s t f) ∧
    (t.stuck → ∀ k, ∃ u, run k t = .next u ∧ ¬ RunOver p s u)

/-- R238: a program whose every command is followed by the answers it awaits runs to its end from any idle state,
whatever the answers say: no mismatched ID, failed write or illegal word stops it. -/
def Obligations.ProgramRunsToItsEnd : Prop :=
  ∀ (s : State) (script : List ((Byte × Half) × List EnvEvent)) (rest : List EnvEvent),
    s.seq = .idle → s.outstanding = none →
    (∀ x ∈ script, answersToEnd s.cfg.expectedId (entryState x.1.1) x.2 = true) →
    s.inbox = script.flatMap (fun x => .cmd x.1.1 x.1.2 :: x.2) ++ rest →
    ∃ t, run (script.flatMap (fun x => EnvEvent.cmd x.1.1 x.1.2 :: x.2)).length s = .next t ∧ t.inbox = rest ∧
      RunOver (script.map Prod.fst) s t

/-! ### Invariants -/

/-- The invariant holds at reset (R34). -/
def Obligations.InvariantHoldsAtReset : Prop := State.reset.Inv

/-- Every step keeps the invariant, from every state that has it: exactly the request `SEQ` names is outstanding and
none in `IDLE` (R24, R31); the remembered word is that of the read in progress (R139); the flags describe the last
`INIT` and `DND` excludes the failure flags (R111, R200); the normalized registers are `GETRGB`'s result on some raw
quadruple (R185); and only the listed requests, diagnostics and delays are ever emitted (R52, R53, R89, R90, R204). -/
def Obligations.StepKeepsInvariant : Prop :=
  ∀ s t : State, s.Inv → step s = .next t → t.Inv

/-! ### What cannot be observed -/

/-- R31, R34, U7: the hidden registers as they stand in `IDLE` are never read before they are written: two runs that
start idle and differ only in them agree in everything else, for ever. So the value the model gives them at reset (log
entry 5) cannot be observed. -/
def Obligations.HiddenRegistersUnobservable : Prop :=
  ∀ (k : Nat) (s : State) (h : Hidden), s.seq = .idle →
    forgetHidden (run k { s with hidden := h }) = forgetHidden (run k s)

/-- R28, R29, R167, C7: no step reads a flag: two runs that differ only in the stored flags agree in everything else,
for ever; in particular nothing is gated by `INIT_DONE`. -/
def Obligations.NoStepReadsAFlag : Prop :=
  ∀ (k : Nat) (s : State) (f g : Flags), setFlags g (run k (s.withFlags f)) = setFlags g (run k s)
end

