-- ==== Sys2Proof/Laws/State.lean ====
section
/-! SUPPORT. One lemma per field of `State` per update, each true by unfolding, so that no later proof unfolds a record
update; and the same for the handle and the flags. -/

namespace Sys2Proof.Machine

@[simp] theorem emit_seq (e : BlockEvent) (s : State) : (emit e s).seq = s.seq := rfl
@[simp] theorem emit_handle (e : BlockEvent) (s : State) : (emit e s).handle = s.handle := rfl
@[simp] theorem emit_flags (e : BlockEvent) (s : State) : (emit e s).flags = s.flags := rfl
@[simp] theorem emit_hidden (e : BlockEvent) (s : State) : (emit e s).hidden = s.hidden := rfl
@[simp] theorem emit_outstanding (e : BlockEvent) (s : State) : (emit e s).outstanding = s.outstanding := rfl
@[simp] theorem emit_cfg (e : BlockEvent) (s : State) : (emit e s).cfg = s.cfg := rfl
@[simp] theorem emit_inbox (e : BlockEvent) (s : State) : (emit e s).inbox = s.inbox := rfl
@[simp] theorem emit_trace (e : BlockEvent) (s : State) : (emit e s).trace = s.trace ++ [e] := rfl

@[simp] theorem request_seq (q : Request) (s : State) : (request q s).seq = s.seq := rfl
@[simp] theorem request_handle (q : Request) (s : State) : (request q s).handle = s.handle := rfl
@[simp] theorem request_flags (q : Request) (s : State) : (request q s).flags = s.flags := rfl
@[simp] theorem request_hidden (q : Request) (s : State) : (request q s).hidden = s.hidden := rfl
@[simp] theorem request_outstanding (q : Request) (s : State) : (request q s).outstanding = some q := rfl
@[simp] theorem request_cfg (q : Request) (s : State) : (request q s).cfg = s.cfg := rfl
@[simp] theorem request_inbox (q : Request) (s : State) : (request q s).inbox = s.inbox := rfl
@[simp] theorem request_trace (q : Request) (s : State) : (request q s).trace = s.trace ++ [q.event] := rfl

@[simp] theorem memRead_seq (reg : Byte) (s : State) : (memRead reg s).seq = s.seq := rfl
@[simp] theorem memRead_handle (reg : Byte) (s : State) : (memRead reg s).handle = s.handle := rfl
@[simp] theorem memRead_flags (reg : Byte) (s : State) : (memRead reg s).flags = s.flags := rfl
@[simp] theorem memRead_hidden (reg : Byte) (s : State) : (memRead reg s).hidden = s.hidden := rfl
@[simp] theorem memRead_outstanding (reg : Byte) (s : State) : (memRead reg s).outstanding = some (.recv s.cfg.devAddr (s.cfg.cmdBit ||| reg)) := rfl
@[simp] theorem memRead_cfg (reg : Byte) (s : State) : (memRead reg s).cfg = s.cfg := rfl
@[simp] theorem memRead_inbox (reg : Byte) (s : State) : (memRead reg s).inbox = s.inbox := rfl
@[simp] theorem memRead_trace (reg : Byte) (s : State) : (memRead reg s).trace = s.trace ++ [.tReqRecv s.cfg.devAddr (s.cfg.cmdBit ||| reg)] := rfl

@[simp] theorem memWrite_seq (reg v : Byte) (s : State) : (memWrite reg v s).seq = s.seq := rfl
@[simp] theorem memWrite_handle (reg v : Byte) (s : State) : (memWrite reg v s).handle = s.handle := rfl
@[simp] theorem memWrite_flags (reg v : Byte) (s : State) : (memWrite reg v s).flags = s.flags := rfl
@[simp] theorem memWrite_hidden (reg v : Byte) (s : State) : (memWrite reg v s).hidden = s.hidden := rfl
@[simp] theorem memWrite_outstanding (reg v : Byte) (s : State) : (memWrite reg v s).outstanding = some (.xmit s.cfg.devAddr (s.cfg.cmdBit ||| reg) v) := rfl
@[simp] theorem memWrite_cfg (reg v : Byte) (s : State) : (memWrite reg v s).cfg = s.cfg := rfl
@[simp] theorem memWrite_inbox (reg v : Byte) (s : State) : (memWrite reg v s).inbox = s.inbox := rfl
@[simp] theorem memWrite_trace (reg v : Byte) (s : State) : (memWrite reg v s).trace = s.trace ++ [.tReqXmit s.cfg.devAddr (s.cfg.cmdBit ||| reg) v] := rfl

@[simp] theorem delay_seq (s : State) : (delay s).seq = s.seq := rfl
@[simp] theorem delay_handle (s : State) : (delay s).handle = s.handle := rfl
@[simp] theorem delay_flags (s : State) : (delay s).flags = s.flags := rfl
@[simp] theorem delay_hidden (s : State) : (delay s).hidden = s.hidden := rfl
@[simp] theorem delay_outstanding (s : State) : (delay s).outstanding = some (.delay 3#8) := rfl
@[simp] theorem delay_cfg (s : State) : (delay s).cfg = s.cfg := rfl
@[simp] theorem delay_inbox (s : State) : (delay s).inbox = s.inbox := rfl
@[simp] theorem delay_trace (s : State) : (delay s).trace = s.trace ++ [.dReq 3#8] := rfl

@[simp] theorem goto_seq (q : Seq) (s : State) : (goto q s).seq = q := rfl
@[simp] theorem goto_handle (q : Seq) (s : State) : (goto q s).handle = s.handle := rfl
@[simp] theorem goto_flags (q : Seq) (s : State) : (goto q s).flags = s.flags := rfl
@[simp] theorem goto_hidden (q : Seq) (s : State) : (goto q s).hidden = s.hidden := rfl
@[simp] theorem goto_outstanding (q : Seq) (s : State) : (goto q s).outstanding = s.outstanding := rfl
@[simp] theorem goto_cfg (q : Seq) (s : State) : (goto q s).cfg = s.cfg := rfl
@[simp] theorem goto_inbox (q : Seq) (s : State) : (goto q s).inbox = s.inbox := rfl
@[simp] theorem goto_trace (q : Seq) (s : State) : (goto q s).trace = s.trace := rfl

@[simp] theorem respond_seq (c : Byte) (v : Half) (s : State) : (respond c v s).seq = s.seq := rfl
@[simp] theorem respond_handle (c : Byte) (v : Half) (s : State) : (respond c v s).handle = s.handle := rfl
@[simp] theorem respond_flags (c : Byte) (v : Half) (s : State) : (respond c v s).flags = s.flags := rfl
@[simp] theorem respond_hidden (c : Byte) (v : Half) (s : State) : (respond c v s).hidden = s.hidden := rfl
@[simp] theorem respond_outstanding (c : Byte) (v : Half) (s : State) : (respond c v s).outstanding = s.outstanding := rfl
@[simp] theorem respond_cfg (c : Byte) (v : Half) (s : State) : (respond c v s).cfg = s.cfg := rfl
@[simp] theorem respond_inbox (c : Byte) (v : Half) (s : State) : (respond c v s).inbox = s.inbox := rfl
@[simp] theorem respond_trace (c : Byte) (v : Half) (s : State) : (respond c v s).trace = s.trace ++ [.done c v] := rfl

@[simp] theorem finish_seq (c : Byte) (v : Half) (s : State) : (finish c v s).seq = .idle := rfl
@[simp] theorem finish_handle (c : Byte) (v : Half) (s : State) : (finish c v s).handle = s.handle := rfl
@[simp] theorem finish_flags (c : Byte) (v : Half) (s : State) : (finish c v s).flags = s.flags := rfl
@[simp] theorem finish_hidden (c : Byte) (v : Half) (s : State) : (finish c v s).hidden = s.hidden := rfl
@[simp] theorem finish_outstanding (c : Byte) (v : Half) (s : State) : (finish c v s).outstanding = none := rfl
@[simp] theorem finish_cfg (c : Byte) (v : Half) (s : State) : (finish c v s).cfg = s.cfg := rfl
@[simp] theorem finish_inbox (c : Byte) (v : Half) (s : State) : (finish c v s).inbox = s.inbox := rfl
@[simp] theorem finish_trace (c : Byte) (v : Half) (s : State) : (finish c v s).trace = s.trace ++ [.done c v] := rfl

@[simp] theorem raise_seq (e : ErrorCause) (s : State) : (raise e s).seq = s.seq := rfl
@[simp] theorem raise_handle (e : ErrorCause) (s : State) : (raise e s).handle = s.handle := rfl
@[simp] theorem raise_flags (e : ErrorCause) (s : State) : (raise e s).flags = e.mark s.flags := rfl
@[simp] theorem raise_hidden (e : ErrorCause) (s : State) : (raise e s).hidden = s.hidden := rfl
@[simp] theorem raise_outstanding (e : ErrorCause) (s : State) : (raise e s).outstanding = s.outstanding := rfl
@[simp] theorem raise_cfg (e : ErrorCause) (s : State) : (raise e s).cfg = s.cfg := rfl
@[simp] theorem raise_inbox (e : ErrorCause) (s : State) : (raise e s).inbox = s.inbox := rfl
@[simp] theorem raise_trace (e : ErrorCause) (s : State) : (raise e s).trace = s.trace ++ e.diag := rfl

@[simp] theorem clearInitErrors_seq (s : State) : (clearInitErrors s).seq = s.seq := rfl
@[simp] theorem clearInitErrors_handle (s : State) : (clearInitErrors s).handle = s.handle := rfl
@[simp] theorem clearInitErrors_flags (s : State) : (clearInitErrors s).flags = s.flags.clearInitErrors := rfl
@[simp] theorem clearInitErrors_hidden (s : State) : (clearInitErrors s).hidden = s.hidden := rfl
@[simp] theorem clearInitErrors_outstanding (s : State) : (clearInitErrors s).outstanding = s.outstanding := rfl
@[simp] theorem clearInitErrors_cfg (s : State) : (clearInitErrors s).cfg = s.cfg := rfl
@[simp] theorem clearInitErrors_inbox (s : State) : (clearInitErrors s).inbox = s.inbox := rfl
@[simp] theorem clearInitErrors_trace (s : State) : (clearInitErrors s).trace = s.trace := rfl

@[simp] theorem writeRaw_seq (ch : Channel) (v : Half) (s : State) : (writeRaw ch v s).seq = s.seq := rfl
@[simp] theorem writeRaw_handle (ch : Channel) (v : Half) (s : State) : (writeRaw ch v s).handle = s.handle.setRaw v ch := rfl
@[simp] theorem writeRaw_flags (ch : Channel) (v : Half) (s : State) : (writeRaw ch v s).flags = s.flags := rfl
@[simp] theorem writeRaw_hidden (ch : Channel) (v : Half) (s : State) : (writeRaw ch v s).hidden = s.hidden := rfl
@[simp] theorem writeRaw_outstanding (ch : Channel) (v : Half) (s : State) : (writeRaw ch v s).outstanding = s.outstanding := rfl
@[simp] theorem writeRaw_cfg (ch : Channel) (v : Half) (s : State) : (writeRaw ch v s).cfg = s.cfg := rfl
@[simp] theorem writeRaw_inbox (ch : Channel) (v : Half) (s : State) : (writeRaw ch v s).inbox = s.inbox := rfl
@[simp] theorem writeRaw_trace (ch : Channel) (v : Half) (s : State) : (writeRaw ch v s).trace = s.trace := rfl

@[simp] theorem writeNorm_seq (r g b : UQ) (s : State) : (writeNorm r g b s).seq = s.seq := rfl
@[simp] theorem writeNorm_handle (r g b : UQ) (s : State) : (writeNorm r g b s).handle = { s.handle with r := r, g := g, b := b } := rfl
@[simp] theorem writeNorm_flags (r g b : UQ) (s : State) : (writeNorm r g b s).flags = s.flags := rfl
@[simp] theorem writeNorm_hidden (r g b : UQ) (s : State) : (writeNorm r g b s).hidden = s.hidden := rfl
@[simp] theorem writeNorm_outstanding (r g b : UQ) (s : State) : (writeNorm r g b s).outstanding = s.outstanding := rfl
@[simp] theorem writeNorm_cfg (r g b : UQ) (s : State) : (writeNorm r g b s).cfg = s.cfg := rfl
@[simp] theorem writeNorm_inbox (r g b : UQ) (s : State) : (writeNorm r g b s).inbox = s.inbox := rfl
@[simp] theorem writeNorm_trace (r g b : UQ) (s : State) : (writeNorm r g b s).trace = s.trace := rfl

@[simp] theorem illegalCommand_seq (c : Byte) (s : State) : (illegalCommand c s).seq = s.seq := rfl
@[simp] theorem illegalCommand_handle (c : Byte) (s : State) : (illegalCommand c s).handle = s.handle := rfl
@[simp] theorem illegalCommand_flags (c : Byte) (s : State) : (illegalCommand c s).flags = { s.flags with ill := true } := rfl
@[simp] theorem illegalCommand_hidden (c : Byte) (s : State) : (illegalCommand c s).hidden = s.hidden := rfl
@[simp] theorem illegalCommand_outstanding (c : Byte) (s : State) : (illegalCommand c s).outstanding = s.outstanding := rfl
@[simp] theorem illegalCommand_cfg (c : Byte) (s : State) : (illegalCommand c s).cfg = s.cfg := rfl
@[simp] theorem illegalCommand_inbox (c : Byte) (s : State) : (illegalCommand c s).inbox = s.inbox := rfl
@[simp] theorem illegalCommand_trace (c : Byte) (s : State) : (illegalCommand c s).trace = s.trace ++ [.diag 0x03#8 c] ++ [.done c 0x0000#16] := rfl

@[simp] theorem resetBlock_seq (s : State) : (resetBlock s).seq = .idle := rfl
@[simp] theorem resetBlock_handle (s : State) : (resetBlock s).handle = Handle.reset := rfl
@[simp] theorem resetBlock_flags (s : State) : (resetBlock s).flags = Flags.reset := rfl
@[simp] theorem resetBlock_hidden (s : State) : (resetBlock s).hidden = Hidden.reset := rfl
@[simp] theorem resetBlock_outstanding (s : State) : (resetBlock s).outstanding = none := rfl
@[simp] theorem resetBlock_cfg (s : State) : (resetBlock s).cfg = s.cfg := rfl
@[simp] theorem resetBlock_inbox (s : State) : (resetBlock s).inbox = s.inbox := rfl
@[simp] theorem resetBlock_trace (s : State) : (resetBlock s).trace = s.trace := rfl

@[simp] theorem offerCommand_seq (c : Byte) (d : Half) (s : State) : (offerCommand c d s).seq = .idle := rfl
@[simp] theorem offerCommand_handle (c : Byte) (d : Half) (s : State) : (offerCommand c d s).handle = s.handle := rfl
@[simp] theorem offerCommand_flags (c : Byte) (d : Half) (s : State) : (offerCommand c d s).flags = s.flags := rfl
@[simp] theorem offerCommand_hidden (c : Byte) (d : Half) (s : State) : (offerCommand c d s).hidden = s.hidden := rfl
@[simp] theorem offerCommand_outstanding (c : Byte) (d : Half) (s : State) : (offerCommand c d s).outstanding = none := rfl
@[simp] theorem offerCommand_cfg (c : Byte) (d : Half) (s : State) : (offerCommand c d s).cfg = s.cfg := rfl
@[simp] theorem offerCommand_inbox (c : Byte) (d : Half) (s : State) : (offerCommand c d s).inbox = .cmd c d :: s.inbox := rfl
@[simp] theorem offerCommand_trace (c : Byte) (d : Half) (s : State) : (offerCommand c d s).trace = s.trace := rfl

/-! The handle: a raw write changes the register of its channel and no other. -/

@[simp] theorem raw_setRaw (h : Handle) (v : Half) (ch ch' : Channel) :
    (h.setRaw v ch).raw ch' = if ch' = ch then v else h.raw ch' := by
  cases ch <;> cases ch' <;> rfl

@[simp] theorem setRaw_r (h : Handle) (v : Half) (ch : Channel) : (h.setRaw v ch).r = h.r := by
  cases ch <;> rfl

@[simp] theorem setRaw_g (h : Handle) (v : Half) (ch : Channel) : (h.setRaw v ch).g = h.g := by
  cases ch <;> rfl

@[simp] theorem setRaw_b (h : Handle) (v : Half) (ch : Channel) : (h.setRaw v ch).b = h.b := by
  cases ch <;> rfl

/-! The flags. -/

@[simp] theorem setTxf_initDone (f : Flags) (w : WriteStep) : (f.setTxf w).initDone = f.initDone := by
  cases w <;> rfl

@[simp] theorem setTxf_dnd (f : Flags) (w : WriteStep) : (f.setTxf w).dnd = f.dnd := by
  cases w <;> rfl

@[simp] theorem setTxf_ill (f : Flags) (w : WriteStep) : (f.setTxf w).ill = f.ill := by
  cases w <;> rfl

@[simp] theorem setTxf_txfAtime (f : Flags) (w : WriteStep) :
    (f.setTxf w).txfAtime = (f.txfAtime || w == .atime) := by
  cases w <;> cases h : f.txfAtime <;> simp [Flags.setTxf, h]

@[simp] theorem setTxf_txfGain (f : Flags) (w : WriteStep) :
    (f.setTxf w).txfGain = (f.txfGain || w == .gain) := by
  cases w <;> cases h : f.txfGain <;> simp [Flags.setTxf, h]

@[simp] theorem setTxf_txfPon (f : Flags) (w : WriteStep) :
    (f.setTxf w).txfPon = (f.txfPon || w == .pon) := by
  cases w <;> cases h : f.txfPon <;> simp [Flags.setTxf, h]

@[simp] theorem setTxf_txfAen (f : Flags) (w : WriteStep) :
    (f.setTxf w).txfAen = (f.txfAen || w == .aen) := by
  cases w <;> cases h : f.txfAen <;> simp [Flags.setTxf, h]

@[simp] theorem clearInitErrors_flag_initDone (f : Flags) : f.clearInitErrors.initDone = f.initDone := rfl
@[simp] theorem clearInitErrors_flag_ill (f : Flags) : f.clearInitErrors.ill = f.ill := rfl
@[simp] theorem clearInitErrors_flag_dnd (f : Flags) : f.clearInitErrors.dnd = false := rfl
@[simp] theorem clearInitErrors_flag_txfAtime (f : Flags) : f.clearInitErrors.txfAtime = false := rfl
@[simp] theorem clearInitErrors_flag_txfGain (f : Flags) : f.clearInitErrors.txfGain = false := rfl
@[simp] theorem clearInitErrors_flag_txfPon (f : Flags) : f.clearInitErrors.txfPon = false := rfl
@[simp] theorem clearInitErrors_flag_txfAen (f : Flags) : f.clearInitErrors.txfAen = false := rfl

end Sys2Proof.Machine
end

