-- ==== Sys2Proof/Laws/Ops.lean ====
section
/-! SUPPORT. What each shared operation can do, said once: acceptance, the check of a write's status, normalization,
the decoder on a legal and on an illegal word, one delivered event, a step and a run. Later proofs cite these and unfold nothing. -/

namespace Sys2Proof.Machine

/-- A command accepted in `IDLE` has its effect. -/
theorem accept_idle {f : State → State} {s : State} (h : s.seq = .idle) : accept f s = .next (f s) := by
  simp [accept, h]

/-- A command offered in any other state changes nothing. -/
theorem accept_busy {f : State → State} {s : State} (h : s.seq ≠ .idle) : accept f s = .next s := by
  simp [accept, h]

/-- All that acceptance can do. -/
theorem accept_next {f : State → State} {s t : State} (h : accept f s = .next t) :
    (s.seq = .idle ∧ t = f s) ∨ (s.seq ≠ .idle ∧ t = s) := by
  by_cases hs : s.seq = .idle
  · rw [accept_idle hs] at h; cases h; exact .inl ⟨hs, rfl⟩
  · rw [accept_busy hs] at h; cases h; exact .inr ⟨hs, rfl⟩

/-- All that the status of a write can do (R192). -/
theorem checkStatus_cases (w : WriteStep) (st : Byte) (s : State) :
    (st = 0#8 ∧ checkStatus w st s = s) ∨
    (st ≠ 0#8 ∧ checkStatus w st s =
      { s with flags := s.flags.setTxf w, trace := s.trace ++ [.diag 0x02#8 w.number] }) := by
  by_cases h : st = 0#8
  · exact .inl ⟨h, by simp [checkStatus, h]⟩
  · exact .inr ⟨h, by simp [checkStatus, h, raise, ErrorCause.mark, ErrorCause.diag]⟩

@[simp] theorem checkStatus_seq (w : WriteStep) (st : Byte) (s : State) : (checkStatus w st s).seq = s.seq := by
  unfold checkStatus; split <;> rfl

@[simp] theorem checkStatus_handle (w : WriteStep) (st : Byte) (s : State) : (checkStatus w st s).handle = s.handle := by
  unfold checkStatus; split <;> rfl

@[simp] theorem checkStatus_hidden (w : WriteStep) (st : Byte) (s : State) : (checkStatus w st s).hidden = s.hidden := by
  unfold checkStatus; split <;> rfl

@[simp] theorem checkStatus_outstanding (w : WriteStep) (st : Byte) (s : State) : (checkStatus w st s).outstanding = s.outstanding := by
  unfold checkStatus; split <;> rfl

@[simp] theorem checkStatus_cfg (w : WriteStep) (st : Byte) (s : State) : (checkStatus w st s).cfg = s.cfg := by
  unfold checkStatus; split <;> rfl

@[simp] theorem checkStatus_inbox (w : WriteStep) (st : Byte) (s : State) : (checkStatus w st s).inbox = s.inbox := by
  unfold checkStatus; split <;> rfl

@[simp] theorem checkStatus_flags (w : WriteStep) (st : Byte) (s : State) :
    (checkStatus w st s).flags = if st = 0#8 then s.flags else s.flags.setTxf w := by
  unfold checkStatus; split <;> rfl

@[simp] theorem checkStatus_trace (w : WriteStep) (st : Byte) (s : State) :
    (checkStatus w st s).trace = s.trace ++ if st = 0#8 then [] else [.diag 0x02#8 w.number] := by
  unfold checkStatus; split <;> simp [ErrorCause.diag]

/-- The handle `GETRGB` leaves (R150). -/
def normalizedHandle (h : Handle) : Handle :=
  if h.cRaw = 0#16 then { h with r := 0#40, g := 0#40, b := 0#40 }
  else { h with r := normValue h.rRaw h.cRaw, g := normValue h.gRaw h.cRaw, b := normValue h.bRaw h.cRaw }

/-- Normalization writes the handle and nothing else; the zero guard records nothing (R150, R193). -/
theorem normalizeRaw_eq (s : State) : normalizeRaw s = { s with handle := normalizedHandle s.handle } := by
  by_cases h : s.handle.cRaw = 0#16 <;>
    simp [normalizeRaw, normalizedHandle, h, writeNorm, raise, ErrorCause.mark, ErrorCause.diag]

@[simp] theorem normalizeRaw_seq (s : State) : (normalizeRaw s).seq = s.seq := by rw [normalizeRaw_eq]

@[simp] theorem normalizeRaw_flags (s : State) : (normalizeRaw s).flags = s.flags := by rw [normalizeRaw_eq]

@[simp] theorem normalizeRaw_hidden (s : State) : (normalizeRaw s).hidden = s.hidden := by rw [normalizeRaw_eq]

@[simp] theorem normalizeRaw_outstanding (s : State) : (normalizeRaw s).outstanding = s.outstanding := by rw [normalizeRaw_eq]

@[simp] theorem normalizeRaw_cfg (s : State) : (normalizeRaw s).cfg = s.cfg := by rw [normalizeRaw_eq]

@[simp] theorem normalizeRaw_inbox (s : State) : (normalizeRaw s).inbox = s.inbox := by rw [normalizeRaw_eq]

@[simp] theorem normalizeRaw_trace (s : State) : (normalizeRaw s).trace = s.trace := by rw [normalizeRaw_eq]

@[simp] theorem normalizeRaw_handle (s : State) : (normalizeRaw s).handle = normalizedHandle s.handle := by
  rw [normalizeRaw_eq]

/-- All that the ending step of a raw read does (R142). -/
theorem readEnd_eq (s : State) :
    readEnd s = { s with
      seq := .idle
      outstanding := none
      handle := if s.hidden.capf = true then s.handle.setRaw s.hidden.val s.hidden.ch else s.handle
      trace := s.trace ++ [.done s.hidden.cmd s.hidden.val] } := by
  unfold readEnd; split <;> rfl

/-- The reading is the high byte in bits 15:8 and the low byte in bits 7:0 (R130). -/
theorem assembleReading_eq_append (high low : Byte) : assembleReading high low = (high ++ low : BitVec (8 + 8)) := by
  apply BitVec.eq_of_getLsbD_eq
  intro i hi
  refine Eq.trans ?_ (BitVec.getLsbD_append (x := high) (y := low) (i := i)).symm
  by_cases h : i < 8
  · simp [assembleReading, h, show i < 16 by omega]
  · simp [assembleReading, h, show i < 16 by omega, BitVec.getLsbD_of_ge low i (by omega)]

/-- What each command does in the step that accepts it. -/
def effect : Instr → State → State
  | .init => startInit
  | .getrgb => fun s => respond 0x02#8 0x0000#16 (normalizeRaw s)
  | .detect => fun s => respond 0x03#8 ((classify s.cfg.minRaw s.handle).code.setWidth 16) s
  | .getrawR => startRawRead 0x04#8
  | .getrawG => startRawRead 0x05#8
  | .getrawB => startRawRead 0x06#8
  | .getrawC => startRawRead 0x07#8
  | .getrawcR => startRawRead 0x14#8
  | .getrawcG => startRawRead 0x15#8
  | .getrawcB => startRawRead 0x16#8
  | .getrawcC => startRawRead 0x17#8
  | .setrawR n => fun s => respond 0x08#8 0x0000#16 (writeRaw .red n s)
  | .setrawG n => fun s => respond 0x09#8 0x0000#16 (writeRaw .green n s)
  | .setrawB n => fun s => respond 0x0A#8 0x0000#16 (writeRaw .blue n s)
  | .setrawC n => fun s => respond 0x0B#8 0x0000#16 (writeRaw .clear n s)

/-- `exec` is the acceptance of the command's effect. -/
theorem exec_eq_accept (i : Instr) (s : State) : exec i s = accept (effect i) s := by
  cases i <;> rfl

/-- Whether a word is illegal does not depend on the operand (R82). -/
theorem decode_error_any {c : Byte} {d : Half} {e : DecodeError} (h : decode c d = .error e) (d' : Half) :
    decode c d' = .error e := by
  unfold decode at h ⊢
  revert h
  simp only
  repeat' split
  all_goals simp_all

/-- The word of an instruction has the fields R80 gives it. -/
theorem splitFields_opcode (i : Instr) : splitFields (opcode i) = i.fields := by
  cases i <;> simp [splitFields, opcode, Instr.fields]

/-- Everything one delivered event can do when it answers a next state. -/
inductive Handles (s : State) : EnvEvent → State → Prop where
  | busy (c : Byte) (d : Half) (h : s.seq ≠ .idle) : Handles s (.cmd c d) s
  | command (c : Byte) (d : Half) (i : Instr) (h : s.seq = .idle) (hd : decode c d = .ok i) :
    Handles s (.cmd c d) (effect i s)
  | illegal (c : Byte) (d : Half) (e : DecodeError) (h : s.seq = .idle) (hd : decode c d = .error e) :
    Handles s (.cmd c d) (illegalCommand c s)
  | init1 (b : Byte) (h : s.seq = .init1) : Handles s (.tRspByte b) (initStep1 b s)
  | init2 (st : Byte) (h : s.seq = .init2) : Handles s (.tRspStatus st) (initStep2 st s)
  | init3 (h : s.seq = .init3) : Handles s .dDone (initStep3 s)
  | init4 (st : Byte) (h : s.seq = .init4) : Handles s (.tRspStatus st) (initStep4 st s)
  | init5 (st : Byte) (h : s.seq = .init5) : Handles s (.tRspStatus st) (initStep5 st s)
  | init6 (h : s.seq = .init6) : Handles s .dDone (initStep6 s)
  | init7 (st : Byte) (h : s.seq = .init7) : Handles s (.tRspStatus st) (initStep7 st s)
  | init8 (h : s.seq = .init8) : Handles s .dDone (initStep8 s)
  | rdLo (b : Byte) (h : s.seq = .rdLo) : Handles s (.tRspByte b) (readLow b s)
  | rdHi (b : Byte) (h : s.seq = .rdHi) : Handles s (.tRspByte b) (readHigh b s)
  | rdWait (h : s.seq = .rdWait) : Handles s .dDone (readEnd s)
  | reset (b : Bool) (h : s.outstanding = none ∨ b = true) : Handles s (.reset b) (resetBlock s)

/-- One delivered event answers a next state in exactly these ways. -/
theorem deliver_next_iff {e : EnvEvent} {s t : State} : deliver e s = .next t ↔ Handles s e t := by
  constructor
  · intro h
    cases e with
    | cmd c d =>
      simp only [deliver, onCommand] at h
      split at h
      · rename_i hs
        split at h
        · rename_i i hd
          rw [exec_eq_accept, accept_idle hs] at h
          cases h; exact .command c d i hs hd
        · rename_i e hd
          cases h; exact .illegal c d e hs hd
      · rename_i hs
        cases h; exact .busy c d hs
    | tRspByte b =>
      simp only [deliver, onByte] at h
      split at h <;> cases h
      · exact .init1 b ‹_›
      · exact .rdLo b ‹_›
      · exact .rdHi b ‹_›
    | tRspStatus st =>
      simp only [deliver, onStatus] at h
      split at h <;> cases h
      · exact .init2 st ‹_›
      · exact .init4 st ‹_›
      · exact .init5 st ‹_›
      · exact .init7 st ‹_›
    | dDone =>
      simp only [deliver, onDelayDone] at h
      split at h <;> cases h
      · exact .init3 ‹_›
      · exact .init6 ‹_›
      · exact .init8 ‹_›
      · exact .rdWait ‹_›
    | reset b =>
      simp only [deliver, onReset] at h
      split at h
      · cases h; exact .reset b (.inl ‹_›)
      · split at h
        · cases h; exact .reset b (.inr ‹_›)
        · cases h
  · intro h
    cases h with
    | busy c d h => simp [deliver, onCommand, h]
    | command c d i h hd => simp [deliver, onCommand, h, hd, exec_eq_accept, accept]
    | illegal c d e h hd => simp [deliver, onCommand, h, hd]
    | reset b h =>
      rcases h with h | h
      · simp [deliver, onReset, h]
      · cases hq : s.outstanding <;> simp [deliver, onReset, hq, h]
    | init1 _ h | rdLo _ h | rdHi _ h => simp [deliver, onByte, h]
    | init2 _ h | init4 _ h | init5 _ h | init7 _ h => simp [deliver, onStatus, h]
    | init3 h | init6 h | init8 h | rdWait h => simp [deliver, onDelayDone, h]

/-- Nothing delivered: the block stays as it is. -/
theorem step_nil {s : State} (h : s.inbox = []) : step s = .next s := by
  simp [step, takeEvent, h]

/-- One delivered event: it leaves the list and is handled. -/
theorem step_cons {s : State} {e : EnvEvent} {rest : List EnvEvent} (h : s.inbox = e :: rest) :
    step s = deliver e { s with inbox := rest } := by
  simp [step, takeEvent, h]

/-- All that a step can do. -/
theorem step_cases {s t : State} (h : step s = .next t) :
    (s.inbox = [] ∧ t = s) ∨ ∃ e rest, s.inbox = e :: rest ∧ Handles { s with inbox := rest } e t := by
  cases hi : s.inbox with
  | nil => rw [step_nil hi] at h; cases h; exact .inl ⟨rfl, rfl⟩
  | cons e rest =>
    rw [step_cons hi] at h
    exact .inr ⟨e, rest, rfl, deliver_next_iff.mp h⟩

/-- A run of `k + 1` steps is a step and then a run of `k`. -/
theorem run_succ {s t : State} (k : Nat) (h : step s = .next t) : run (k + 1) s = run k t := by
  simp [run, h]

/-- A run of `m + n` steps is a run of `m` and then a run of `n`. -/
theorem run_add (m n : Nat) {s t : State} (h : run m s = .next t) : run (m + n) s = run n t := by
  induction m generalizing s with
  | zero => cases h; rw [Nat.zero_add]
  | succ m ih =>
    rw [Nat.succ_add_eq_add_succ, Nat.add_succ]
    cases hs : step s with
    | next u => rw [run_succ _ hs] at h ⊢; exact ih h
    | fault r => simp [run, hs] at h
    | refused r => simp [run, hs] at h

/-- A moment at which the environment delivers nothing. -/
theorem runUnder_silent {env : Environment} {s t : State} {k : Nat} (h : runUnder env s k = .next t)
    (he : env k = none) : runUnder env s (k + 1) = .next t := by
  simp [runUnder, h, he]

/-- A moment at which the environment delivers one event. -/
theorem runUnder_delivery {env : Environment} {s t : State} {e : EnvEvent} {k : Nat} (h : runUnder env s k = .next t)
    (he : env k = some e) : runUnder env s (k + 1) = step { t with inbox := [e] } := by
  simp [runUnder, h, he]

/-- The first of the answers a command awaits is one that may be delivered now. -/
theorem answersToEnd_mayDeliver {id : Byte} {s : State} {e : EnvEvent} {l : List EnvEvent}
    (h : answersToEnd id s.seq (e :: l) = true) : e.isAnswer = true ∧ s.mayDeliver e = true := by
  cases hq : s.seq <;> cases e <;> simp [hq, answersToEnd, EnvEvent.isAnswer, State.mayDeliver] at h ⊢

end Sys2Proof.Machine
end

