-- ==== Sys2Proof/Laws/PerInstr.lean ====
section
/-! SUPPORT. Laws stated for every instruction as syntax, one lemma per constructor. -/

namespace Sys2Proof.Laws.LegalWord

/-- The word of an instruction is legal: none of the cases of spec/30_encoding.md R85. -/
def Statement (i : Instr) : Prop := i.wellFormed = true

theorem init : Statement .init := rfl
theorem getrgb : Statement .getrgb := rfl
theorem detect : Statement .detect := rfl
theorem getrawR : Statement .getrawR := rfl
theorem getrawG : Statement .getrawG := rfl
theorem getrawB : Statement .getrawB := rfl
theorem getrawC : Statement .getrawC := rfl
theorem getrawcR : Statement .getrawcR := rfl
theorem getrawcG : Statement .getrawcG := rfl
theorem getrawcB : Statement .getrawcB := rfl
theorem getrawcC : Statement .getrawcC := rfl
theorem setrawR (n : Half) : Statement (.setrawR n) := rfl
theorem setrawG (n : Half) : Statement (.setrawG n) := rfl
theorem setrawB (n : Half) : Statement (.setrawB n) := rfl
theorem setrawC (n : Half) : Statement (.setrawC n) := rfl

end Sys2Proof.Laws.LegalWord
end

