-- ==== Sys2Proof/Tests/Slice0.lean ====
section
/-! SUPPORT. Tests of one step each, with results taken from spec/95_test_vectors.md and the rules, the smoke test of
WellFormed, the decoding of words written out bit by bit, and a witness for the hypotheses of each statement. -/

namespace Sys2Proof.Tests

open Sys2Proof Sys2Proof.Machine

/-- The next state, when there is one. -/
def nextOf : Host.Outcome State Fault Refusal → Option State
  | .next s => some s
  | .fault _ | .refused _ => none

/-- Was the step refused? -/
def isRefused : Host.Outcome State Fault Refusal → Bool
  | .refused _ => true
  | .next _ | .fault _ => false

/-- A state with default parameters, in a sequencer state, with deliveries to come. -/
def at_ (q : Seq) (l : List EnvEvent) : State := { State.reset with seq := q, inbox := l }

/-- An idle state with a handle of the given raw registers, normalized registers zero. -/
def withRaw (r g b c : Half) : State := { State.reset with handle := ⟨r, g, b, c, 0, 0, 0⟩ }

/-- The same after `GETRGB`. -/
def normed (r g b c : Half) : Option State := nextOf (exec .getrgb (withRaw r g b c))

/-- The value of the last `Done`. -/
def lastDone (s : Option State) : Option BlockEvent := s.bind (fun s => s.trace.getLast?)

/-- The verdict `DETECT` answers after `GETRGB`. -/
def verdict (r g b c : Half) : Option BlockEvent :=
  (normed r g b c).bind (fun s => lastDone (nextOf (exec .detect s)))

/-! ### WellFormed refuses each ill-formed term (R84, R85, R91) -/

theorem test_zero_bits_refused : CmdFields.wellFormed ⟨1#3, false, 0#2, 1#2⟩ = false := by decide
theorem test_capturing_init_refused : CmdFields.wellFormed ⟨0#3, true, 0#2, 1#2⟩ = false := by decide
theorem test_capturing_load_refused : CmdFields.wellFormed ⟨0#3, true, 2#2, 0#2⟩ = false := by decide
theorem test_reserved_group_refused : CmdFields.wellFormed ⟨0#3, false, 3#2, 1#2⟩ = false := by decide
theorem test_reserved_operation_refused : CmdFields.wellFormed ⟨0#3, false, 0#2, 0#2⟩ = false := by decide
theorem test_capturing_read_legal : CmdFields.wellFormed ⟨0#3, true, 1#2, 0#2⟩ = true := by decide
theorem test_missing_operand_refused : AsmLine.wellFormed (.plain (.setrawR 5#16)) = false := by decide
theorem test_operand_range_refused :
    AsmLine.wellFormed (.load1 .red 65536) = false ∧ AsmLine.wellFormed (.load 0 0 65536 0) = false := by decide

/-! ### Words written out from R80 (ZERO CAP GRP SEL) decode to their instructions; V1 -/

theorem test_decode_group00 :
    decode 0b000_0_00_01#8 7#16 = .ok .init ∧ decode 0b000_0_00_10#8 7#16 = .ok .getrgb ∧
    decode 0b000_0_00_11#8 7#16 = .ok .detect := by decide
theorem test_decode_raw_reads :
    decode 0b000_0_01_00#8 7#16 = .ok .getrawR ∧ decode 0b000_0_01_01#8 7#16 = .ok .getrawG ∧
    decode 0b000_0_01_10#8 7#16 = .ok .getrawB ∧ decode 0b000_0_01_11#8 7#16 = .ok .getrawC := by decide
theorem test_decode_capturing_reads :
    decode 0b000_1_01_00#8 7#16 = .ok .getrawcR ∧ decode 0b000_1_01_01#8 7#16 = .ok .getrawcG ∧
    decode 0b000_1_01_10#8 7#16 = .ok .getrawcB ∧ decode 0b000_1_01_11#8 7#16 = .ok .getrawcC := by decide
theorem test_decode_handle_loads :
    decode 0b000_0_10_00#8 200#16 = .ok (.setrawR 200#16) ∧
    decode 0b000_0_10_01#8 0xFFFF#16 = .ok (.setrawG 0xFFFF#16) ∧
    decode 0b000_0_10_10#8 0#16 = .ok (.setrawB 0#16) ∧
    decode 0b000_0_10_11#8 255#16 = .ok (.setrawC 255#16) := by decide
theorem test_decode_illegal_by_name :
    decode 0x00#8 0#16 = .error .reservedOperation ∧ decode 0x0C#8 0#16 = .error .reservedGroup ∧
    decode 0x0F#8 0#16 = .error .reservedGroup ∧ decode 0x11#8 0#16 = .error .captureOutsideRawRead ∧
    decode 0x12#8 0#16 = .error .captureOutsideRawRead ∧ decode 0x13#8 0#16 = .error .captureOutsideRawRead ∧
    decode 0x18#8 0#16 = .error .captureOutsideRawRead ∧ decode 0x1B#8 0#16 = .error .captureOutsideRawRead := by
  decide
theorem test_decode_zero_bits_by_name :
    decode 0x21#8 0#16 = .error .zeroBitsSet ∧ decode 0x41#8 0#16 = .error .zeroBitsSet ∧
    decode 0x81#8 0#16 = .error .zeroBitsSet ∧ decode 0x24#8 0#16 = .error .zeroBitsSet ∧
    decode 0x94#8 0#16 = .error .zeroBitsSet ∧ decode 0xFF#8 0#16 = .error .zeroBitsSet := by decide
theorem test_table_word : decodeTableWord 8 0x17 = some .getrawcC ∧ decodeTableWord 8 0x1F = none := by decide
/-- The first line of program P4. -/
theorem test_assemble_load :
    assemble [.load 5 3 2 255] = some [(0x08#8, 5#16), (0x09#8, 3#16), (0x0A#8, 2#16), (0x0B#8, 255#16)] := by decide

/-! ### One step each; results from the vectors named -/

/-- V2: the first event of `INIT`; the bytes are the default parameters'. -/
theorem test_init_accept : (nextOf (step (at_ .idle [.cmd 0x01#8 9#16]))).map (fun s => (s.seq, s.trace)) =
    some (.init1, [.tReqRecv 0x29#8 0x92#8]) := by decide
/-- V2 row 4: an ID one bit off aborts with `STATUS` 0x02. -/
theorem test_init_one_bit_off : (nextOf (step (at_ .init1 [.tRspByte 0xCD#8]))).map (fun s => (s.status, s.trace)) =
    some (0x02#8, [.diag 0x01#8 0xCD#8, .done 0x01#8 0x0000#16]) := by decide
/-- V2 row 6: a failed gain write, and still no delay before the power-on write. -/
theorem test_init_gain_failure :
    (nextOf (step (at_ .init4 [.tRspStatus 2#8]))).map (fun s => (s.status, s.trace)) =
    some (0x88#8, [.diag 0x02#8 0x04#8, .tReqXmit 0x29#8 0x80#8 0x01#8]) := by decide
/-- V2 row 1: step 7 transmits 0x03, both enable flags. -/
theorem test_init_enable_both : (nextOf (step (at_ .init6 [.dDone]))).map (fun s => s.trace) =
    some [.tReqXmit 0x29#8 0x80#8 0x03#8] := by decide
/-- R119. -/
theorem test_init_end : (nextOf (step (at_ .init8 [.dDone]))).map (fun s => (s.seq, s.status)) =
    some (.idle, 0x01#8) := by decide
/-- V3: register arguments of the low bytes. -/
theorem test_getraw_low_addresses :
    [Instr.getrawR, .getrawG, .getrawB, .getrawC].map (fun i => lastDone (nextOf (exec i State.reset))) =
    [some (.tReqRecv 0x29#8 0x96#8), some (.tReqRecv 0x29#8 0x98#8), some (.tReqRecv 0x29#8 0x9A#8),
      some (.tReqRecv 0x29#8 0x94#8)] := by decide
theorem test_getrawc_low_addresses :
    [Instr.getrawcR, .getrawcG, .getrawcB, .getrawcC].map (fun i => lastDone (nextOf (exec i State.reset))) =
    [some (.tReqRecv 0x29#8 0x96#8), some (.tReqRecv 0x29#8 0x98#8), some (.tReqRecv 0x29#8 0x9A#8),
      some (.tReqRecv 0x29#8 0x94#8)] := by decide
/-- V3 row 6: low 0x80, high 0x01 gives 0x0180. -/
theorem test_reading_order : assembleReading 0x01#8 0x80#8 = 0x0180#16 := by decide
/-- R142: capture into the channel's register only. -/
theorem test_read_end_captures :
    (nextOf (step { at_ .rdWait [.dDone] with hidden := ⟨.clear, true, 0#8, 0x0400#16, 0x17#8⟩ })).map
      (fun s => (s.handle.cRaw, s.handle.rRaw, s.trace)) =
    some (0x0400#16, 0#16, [.done 0x17#8 0x0400#16]) := by decide
/-- V4: S1; the zero guard; the maximum; the smallest; truncation. -/
theorem test_getrgb_s1 : (normed 200 50 50 255).map (fun s => (s.handle.r, s.handle.g, s.handle.b)) =
    some (0x0000C80000#40, 0x0000320000#40, 0x0000320000#40) := by decide
theorem test_getrgb_zero_guard :
    (nextOf (exec .getrgb { State.reset with handle := ⟨1234, 777, 42, 0, 9, 9, 9⟩ })).map
      (fun s => (s.handle.r, s.handle.g, s.handle.b)) = some (0#40, 0#40, 0#40) := by decide
theorem test_norm_values :
    normValue 65535#16 1#16 = 0xFEFF010000#40 ∧ normValue 1#16 65535#16 = 0x00000000FF#40 ∧
    normValue 20#16 500#16 = 0x00000A3333#40 ∧ normValue 3#16 7#16 = 0x00006D4924#40 := by decide
/-- V5: strict thresholds, the BLUE floor of 2, a tie. -/
theorem test_detect_thresholds :
    verdict 11 3 2 255 = some (.done 0x03#8 0#16) ∧ verdict 10 3 2 255 = some (.done 0x03#8 3#16) ∧
    verdict 3 11 2 255 = some (.done 0x03#8 1#16) ∧ verdict 1 2 3 1000 = some (.done 0x03#8 2#16) := by decide
theorem test_detect_ties_and_blue_floor :
    verdict 300 300 100 1000 = some (.done 0x03#8 3#16) ∧ verdict 0 0 2 100 = some (.done 0x03#8 3#16) ∧
    verdict 0 0 3 100 = some (.done 0x03#8 2#16) := by decide
/-- V6. -/
theorem test_setraw_red : (nextOf (exec (.setrawR 200#16) State.reset)).map (fun s => (s.handle, s.trace)) =
    some (⟨0x00C8, 0, 0, 0, 0, 0, 0⟩, [.done 0x08#8 0x0000#16]) := by decide
theorem test_setraw_green : (nextOf (exec (.setrawG 65535#16) State.reset)).map (fun s => s.handle) =
    some ⟨0, 0xFFFF, 0, 0, 0, 0, 0⟩ := by decide
theorem test_setraw_blue : (nextOf (exec (.setrawB 50#16) State.reset)).map (fun s => s.handle) =
    some ⟨0, 0, 0x0032, 0, 0, 0, 0⟩ := by decide
theorem test_setraw_clear : (nextOf (exec (.setrawC 255#16) State.reset)).map (fun s => s.handle) =
    some ⟨0, 0, 0, 0x00FF, 0, 0, 0⟩ := by decide
/-- V1: the nearest illegal word to a capturing `INIT`. -/
theorem test_illegal : (nextOf (step (at_ .idle [.cmd 0x11#8 0#16]))).map (fun s => (s.status, s.trace)) =
    some (0x40#8, [.diag 0x03#8 0x11#8, .done 0x11#8 0x0000#16]) := by decide
/-- U6: a delay's end in `INIT_2` is no move of the environment. -/
theorem test_unsolicited : isRefused (step (at_ .init2 [.dDone])) = true := by decide
/-- The placed word runs in the very next step. -/
theorem test_placed_word : (nextOf (step (State.reset.withFetchWord 8 0x14))).map (fun s => (s.seq, s.hidden.capf)) =
    some (.rdLo, true) := by decide
/-- R93: a receive request on the pins. -/
theorem test_pins : (BlockEvent.tReqXmit 0x29#8 0x81#8 0xFF#8).pins.tReqWrite = true := by decide
theorem test_command_not_looked_at_while_busy :
    deliveredBy true (at_ .init3 []) { cmdValid := true, cmd := 0x03#8 } = none := by decide

/-! ### Witnesses: a state and operands that meet the hypotheses of each statement, clause by clause -/

/-- In the middle of an `INIT`, as its acceptance leaves it. -/
def midInit (l : List EnvEvent) : State :=
  { at_ .init1 l with outstanding := some (.recv 0x29#8 0x92#8), trace := [.tReqRecv 0x29#8 0x92#8] }

theorem witness_ResetPutsEveryPieceAtItsValue :
    ((midInit [.reset true, .cmd 1#8 0#16]).outstanding = none ∨ true = true) ∧
    ((at_ .idle [.reset false, .cmd 1#8 0#16]).outstanding = none ∨ false = true) ∧
    decode 1#8 0#16 = .ok .init := by decide
theorem witness_ResetMidCommandNeedsCollaborators :
    (midInit [.reset false]).outstanding = some (.recv 0x29#8 0x92#8) ∧ (midInit [.reset false]).inbox = [.reset false] ∧
    (midInit [.reset true]).inbox = [.reset true] := by decide
theorem witness_StepRunsDecodedCommand :
    (at_ .idle [.cmd 8#8 5#16]).seq = .idle ∧ (at_ .idle [.cmd 8#8 5#16]).inbox = [.cmd 8#8 5#16] ∧
    decode 8#8 5#16 = .ok (.setrawR 5#16) := by decide
theorem witness_StepRunsPlacedWord : decodeTableWord 8 0x14 = some .getrawcR ∧ decodeTableWord 8 0x08 =
    some (.setrawR 0#16) := by decide
theorem witness_CommandWhileBusyIsNotTaken :
    (midInit [.cmd 3#8 0#16]).seq ≠ .idle ∧ (midInit [.cmd 3#8 0#16]).inbox = [.cmd 3#8 0#16] := by decide
theorem witness_StuckForEver : (midInit []).stuck := ⟨by decide, rfl⟩
theorem witness_StepRefusesExactlyForbiddenDeliveries :
    (midInit [.tRspByte 5#8]).mayDeliver (.tRspByte 5#8) = true ∧
    (midInit [.reset false]).mayDeliver (.reset false) = false ∧ (midInit [.dDone]).mayDeliver .dDone = false := by decide
theorem witness_UnsolicitedResponseIsRefused :
    (at_ .idle [.tRspByte 1#8]).mayDeliver (.tRspByte 1#8) = false ∧
    (at_ .idle [.tRspStatus 0#8]).mayDeliver (.tRspStatus 0#8) = false ∧
    (at_ .idle [.dDone]).mayDeliver .dDone = false := by decide
theorem witness_DecodeEncodeAgree :
    (Instr.setrawB 7#16).wellFormed = true ∧ decode 0x17#8 5#16 = .ok .getrawcC ∧
    (Instr.setrawB 7#16).takesOperand = true := by decide
theorem witness_AssembledProgramDecodes :
    assemble [.plain .init, .load1 .green 65535] = some [(1#8, 0#16), (9#8, 65535#16)] ∧
    (65535 < 5 ∨ 65535 < 5 ∨ 65535 < 65536 ∨ 65535 < 5) ∧ (65535 : Nat) ≤ 65535 := by decide
theorem witness_IllegalCommandEffects :
    (at_ .idle [.cmd 0#8 0#16]).seq = .idle ∧ decode 0#8 0#16 = .error .reservedOperation := by decide
theorem witness_InitAccepted :
    State.reset.seq = .idle ∧ (at_ .idle [.cmd 1#8 0#16]).inbox = [.cmd 1#8 0#16] := by decide
theorem witness_InitIdCheck :
    (midInit [.tRspByte 0x4D#8]).seq = .init1 ∧ (midInit [.tRspByte 0x4D#8]).inbox = [.tRspByte 0x4D#8] ∧
    (0x4D#8 : Byte) = (midInit []).cfg.expectedId ∧ (0x44#8 : Byte) ≠ (midInit []).cfg.expectedId := by decide
theorem witness_InitWriteSteps :
    ∀ q ∈ [Seq.init2, .init4, .init5, .init7], (at_ q [.tRspStatus 1#8]).seq = q ∧
      (at_ q [.tRspStatus 1#8]).inbox = [.tRspStatus 1#8] := by decide
theorem witness_InitDelaySteps :
    (∀ q ∈ [Seq.init3, .init6, .init8], (at_ q [.dDone]).seq = q ∧ (at_ q [.dDone]).inbox = [.dDone]) ∧
    (at_ .init8 [.dDone]).flags.initDone = false ∧
    (nextOf (step (at_ .init8 [.dDone]))).map (fun t => t.flags.initDone) = some true := by decide
theorem witness_InitRunOnMatch :
    (at_ .idle [.cmd 1#8 0#16, .tRspByte 0x4D#8, .tRspStatus 0#8, .dDone, .tRspStatus 2#8, .tRspStatus 0#8, .dDone,
      .tRspStatus 0xFF#8, .dDone]).inbox =
    [.cmd 1#8 0#16, .tRspByte State.reset.cfg.expectedId, .tRspStatus 0#8, .dDone, .tRspStatus 2#8, .tRspStatus 0#8,
      .dDone, .tRspStatus 0xFF#8, .dDone] := by decide
theorem witness_InitRunOnMismatch :
    (at_ .idle [.cmd 1#8 0#16, .tRspByte 0x44#8]).seq = .idle ∧ (0x44#8 : Byte) ≠ (at_ .idle []).cfg.expectedId := by
  decide
theorem witness_RawReadAccepted :
    State.reset.seq = .idle ∧ (at_ .idle [.cmd 0x15#8 0#16]).inbox = [.cmd 0x15#8 0#16] := by decide
theorem witness_RawReadSteps :
    (at_ .rdLo [.tRspByte 1#8]).seq = .rdLo ∧
    ((at_ .rdLo []).hidden.ch, (0x17#8 : Byte)) ∈ [(Channel.red, (at_ .rdLo []).cfg.regRdatah)] ∧
    (at_ .rdHi [.tRspByte 2#8]).seq = .rdHi ∧ (at_ .rdWait [.dDone]).seq = .rdWait := by decide
theorem witness_RawReadRun :
    (at_ .idle [.cmd 0x17#8 0#16, .tRspByte 0#8, .tRspByte 4#8, .dDone]).inbox =
      [.cmd 0x17#8 0#16, .tRspByte 0#8, .tRspByte 4#8, .dDone] ∧
    ((0x04#8 : Byte), false, Channel.red, (0x16#8 : Byte), (0x17#8 : Byte)) =
      (0x04#8, false, Channel.red, State.reset.cfg.regRdatal, State.reset.cfg.regRdatah) ∧
    ((0x17#8 : Byte), true, Channel.clear, (0x14#8 : Byte), (0x15#8 : Byte)) =
      (0x17#8, true, Channel.clear, State.reset.cfg.regCdatal, State.reset.cfg.regCdatah) := by decide
theorem witness_AnyReadingCanResult : State.reset.seq = .idle ∧ (0x07#8 : Byte) ∈ [0x04#8, 0x05#8, 0x06#8, 0x07#8] := by
  decide
theorem witness_GetrgbNormalizes :
    (withRaw 1 2 3 0).handle.cRaw = 0#16 ∧ (withRaw 1 2 3 4).handle.cRaw ≠ 0#16 ∧ (withRaw 1 2 3 4).seq = .idle ∧
    (at_ .idle [.cmd 2#8 9#16]).inbox = [.cmd 2#8 9#16] := by
  decide
theorem witness_Norm : (255#16 : Half) ≠ 0#16 ∧ (255#16 : Half).toNat ∣ (200#16 : Half).toNat * 255 * 65536 ∧
    normValue 1#16 65535#16 ≠ 0#40 := by decide
theorem witness_GetrgbDependsOnRawOnly :
    (withRaw 200 50 50 255).seq = .idle ∧ (normed 200 50 50 255).isSome ∧
    ((normed 200 50 50 255).bind (fun t => nextOf (exec .getrgb t))).isSome := by decide
theorem witness_DetectClassifies :
    (∀ v ∈ [(verdict 200 50 50 255, 0#16), (verdict 50 200 60 400, 1#16), (verdict 20 30 200 500, 2#16),
      (verdict 7 7 7 21, 3#16)], v.1 = some (.done 0x03#8 v.2)) ∧ State.reset.seq = .idle ∧
    (at_ .idle [.cmd 3#8 9#16]).inbox = [.cmd 3#8 9#16] := by decide
theorem witness_VerdictIndependentOfBranchOrder :
    (3#40 : UQ) ≤ 5#40 ∧ classify 10#16 ⟨5, 5, 3, 9, 5, 5, 3⟩ = .nothing ∧
    classify 10#16 ⟨20, 5, 3, 9, 9, 5, 3⟩ = .red ∧ classify 10#16 ⟨5, 20, 3, 9, 5, 9, 3⟩ = .green ∧
    classify 10#16 ⟨5, 5, 3, 9, 5, 5, 9⟩ = .blue := by decide
theorem witness_DetectIsPure :
    nextOf (exec .detect State.reset) = some { State.reset with trace := [.done 0x03#8 3#16] } ∧
    (withRaw 0 0 0 9).handle.rRaw = State.reset.handle.rRaw ∧ (withRaw 0 0 0 9).cfg.minRaw = State.reset.cfg.minRaw := by
  decide
theorem witness_ConsistentVerdictFromRaw :
    (withRaw 200 50 50 255).seq = .idle ∧ (normed 200 50 50 255).map (fun t => t.seq) = some .idle ∧
    (withRaw 1 2 3 0).handle.cRaw = 0#16 := by decide
theorem witness_SetrawStores : State.reset.seq = .idle ∧
    ∀ c ∈ [8#8, 9#8, 10#8, 11#8], (at_ .idle [.cmd c 5#16]).inbox = [.cmd c 5#16] := by decide
theorem witness_Frames :
    (nextOf (exec .init State.reset)).isSome ∧ (nextOf (exec .init (midInit []))).isSome ∧
    (∀ i ∈ [Instr.getrawR, .getrawG, .getrawB, .getrawC, .getrawcR, .getrawcG, .getrawcB, .getrawcC, .getrgb, .detect,
      .setrawR 1#16, .setrawG 2#16, .setrawB 3#16, .setrawC 4#16], (nextOf (exec i State.reset)).isSome = true) := by
  decide
/-- `step` answers a next state on each kind of delivery, so every whole-machine rule has an instance of each. -/
theorem witness_WholeMachineRules :
    (∀ s ∈ [at_ .idle [], at_ .idle [.cmd 8#8 1#16], at_ .idle [.cmd 2#8 0#16], at_ .idle [.cmd 0#8 0#16],
      at_ .idle [.reset false], midInit [.tRspByte 0x4D#8], midInit [.tRspByte 0#8], midInit [.cmd 1#8 0#16],
      at_ .init2 [.tRspStatus 1#8], at_ .init3 [.dDone], at_ .init8 [.dDone],
      { at_ .rdWait [.dDone] with hidden := ⟨.blue, true, 1#8, 2#16, 0x16#8⟩ }],
      (nextOf (step s)).isSome = true) := by decide
theorem witness_StatusBitsFollowTheTable :
    (true = true ↔ (at_ .idle [.cmd 1#8 5#16]).seq = .idle ∧ ∃ d, EnvEvent.cmd 1#8 5#16 = .cmd 0x01#8 d) ∧
    (false = true ↔ (at_ .init8 [.dDone]).seq = .idle ∧ ∃ d, EnvEvent.dDone = .cmd 0x01#8 d) := by
  refine ⟨⟨fun _ => ⟨rfl, 5#16, rfl⟩, fun _ => rfl⟩, ⟨fun h => by simp at h, fun ⟨h, _⟩ => absurd h (by decide)⟩⟩
theorem witness_OnlyResetClearsInitDone :
    (nextOf (run 1 { at_ .idle [.cmd 1#8 0#16] with flags := ⟨true, false, false, false, false, false, true⟩ })).map
      (fun t => (t.flags.initDone, t.flags.ill)) = some (true, true) ∧
    ∀ b, EnvEvent.reset b ∉ (at_ .idle [.cmd 1#8 0#16]).inbox := by decide
theorem witness_CommandEndsWithinEightAnswers :
    (midInit [.tRspByte 0x4D#8, .tRspStatus 0#8, .dDone, .tRspStatus 0#8, .tRspStatus 0#8, .dDone, .tRspStatus 0#8,
      .dDone]).seq ≠ .idle ∧
    (midInit [.tRspByte 0x4D#8, .tRspStatus 0#8, .dDone, .tRspStatus 0#8, .tRspStatus 0#8, .dDone, .tRspStatus 0#8,
      .dDone]).inbox.length = 8 := by decide
theorem witness_AwaitedAnswersEndTheCommand :
    answersToEnd 0x4D#8 (midInit []).seq [.tRspByte 0x4D#8, .tRspStatus 0#8, .dDone, .tRspStatus 2#8, .tRspStatus 0#8,
      .dDone, .tRspStatus 255#8, .dDone] = true ∧
    answersToEnd 0x4D#8 (midInit []).seq [.tRspByte 0x44#8] = true ∧
    answersToEnd 0x4D#8 .rdHi [.tRspByte 0#8, .dDone] = true ∧ (midInit []).seq ≠ .idle ∧
    (midInit []).cfg.expectedId = 0x4D#8 := by decide
/-- An environment that completes the last delay of an `INIT` at its fourth moment and delivers nothing else. -/
def lateDelay : Environment := fun k => if k = 3 then some .dDone else none
/-- Under it the block waits for three moments and is idle ever after. -/
theorem runUnder_lateDelay (k : Nat) : runUnder lateDelay (at_ .init8 []) (k + 4) = .next (initStep8 (at_ .init8 [])) := by
  induction k with
  | zero => rfl
  | succ k ih => exact runUnder_silent ih (by simp [lateDelay])
theorem witness_FairEnvironmentEndsTheCommand :
    (at_ .init8 []).seq ≠ .idle ∧ DelaysComplete lateDelay (at_ .init8 []) ∧
    TransportAnswers lateDelay (at_ .init8 []) ∧ DeliversWhatItMay lateDelay (at_ .init8 []) := by
  have before : ∀ k t, runUnder lateDelay (at_ .init8 []) k = .next t →
      k ≤ 3 ∧ t = at_ .init8 [] ∨ 3 < k ∧ t.seq = .idle := by
    intro k t h
    match k with
    | 0 | 1 | 2 | 3 => cases h; exact .inl ⟨by omega, rfl⟩
    | k + 4 => rw [runUnder_lateDelay] at h; cases h; exact .inr ⟨by omega, rfl⟩
  refine ⟨by decide, fun k t h hs => ?_, fun k t h => ?_, fun k t e h he => ?_⟩
  · rcases before k t h with ⟨hk, -⟩ | ⟨-, hi⟩
    · exact ⟨3, hk, rfl⟩
    · simp [hi] at hs
  · rcases before k t h with ⟨-, rfl⟩ | ⟨-, hi⟩
    · exact ⟨fun hs => absurd hs (by decide), fun hs => absurd hs (by decide)⟩
    · exact ⟨fun hs => by simp [hi] at hs, fun hs => by simp [hi] at hs⟩
  · by_cases hk : k = 3
    · subst hk; cases he
      rcases before 3 t h with ⟨-, rfl⟩ | ⟨h3, -⟩
      · exact ⟨rfl, fun b hb => by cases hb⟩
      · omega
    · simp [lateDelay, hk] at he
/-- A program of two commands, stopped in the second; and one that is over. -/
theorem witness_RunIsOverExactlyInIdle :
    (∃ t, Running [(8#8, 5#16), (1#8, 0#16)] (at_ .idle [.cmd 8#8 5#16, .cmd 1#8 0#16]) t ∧ t.seq ≠ .idle ∧ t.stuck) ∧
    ∃ t, RunOver [(1#8, 0#16)] (at_ .idle [.cmd 1#8 0#16, .tRspByte 0x44#8]) t := by
  constructor
  · exact ⟨_, .issue 1#8 0#16 [] (.issue 8#8 5#16 [.cmd 1#8 0#16] (.start _ rfl rfl) rfl rfl rfl) rfl rfl rfl,
      by decide, by decide, rfl⟩
  · exact ⟨_, .answer (.tRspByte 0x44#8) [] (.issue 1#8 0#16 [.tRspByte 0x44#8] (.start _ rfl rfl) rfl rfl rfl)
      (by decide) rfl rfl rfl, by decide⟩
/-- Program P2: the ID mismatch, then a read. -/
theorem witness_ProgramRunsToItsEnd :
    (∀ x ∈ [((1#8, 0#16), [.tRspByte 0x44#8]), ((4#8, 0#16), [.tRspByte 0x34#8, .tRspByte 0x12#8, .dDone]),
      (((0x11#8 : Byte), (0#16 : Half)), [])],
      answersToEnd State.reset.cfg.expectedId (entryState x.1.1) x.2 = true) ∧
    State.reset.seq = .idle ∧ State.reset.outstanding = none := by decide
/-- A state in the middle of an `INIT` that has the invariant and from which a step answers a next state. -/
theorem witness_StepKeepsInvariant :
    (midInit [.tRspByte 0x44#8]).Inv ∧ (nextOf (step (midInit [.tRspByte 0x44#8]))).isSome = true := by
  refine ⟨⟨rfl, fun h => absurd h (by decide), by simp [FlagsDescribeLastInit, midInit, at_, State.reset, Flags.reset],
    ⟨0, 0, 0, 0, by decide⟩, ?_⟩, by decide⟩
  intro e he
  rcases List.mem_singleton.mp he with rfl
  exact ⟨rfl, by decide⟩
/-- An idle state with a whole raw read to come, which writes and reads every hidden register. -/
theorem witness_HiddenRegistersUnobservable :
    (at_ .idle [.cmd 0x16#8 0#16, .tRspByte 1#8, .tRspByte 2#8, .dDone]).seq = .idle ∧
    (nextOf (run 4 { at_ .idle [.cmd 0x16#8 0#16, .tRspByte 1#8, .tRspByte 2#8, .dDone] with
      hidden := ⟨.clear, false, 7#8, 9#16, 5#8⟩ })).map (fun s => s.handle.bRaw) = some 0x0201#16 := by decide

end Sys2Proof.Tests
end

section
/-! PROOFS. What a word decodes to, what an event can do, and O40. -/
namespace Sys2Proof.Machine
theorem bitVec2_cases (x : BitVec 2) : x = 0#2 ∨ x = 1#2 ∨ x = 2#2 ∨ x = 3#2 := by
  revert x; decide

theorem splitFields_injective {c c' : Byte} (h : splitFields c = splitFields c') : c = c' := by
  simp only [splitFields, CmdFields.mk.injEq] at h
  obtain ⟨hzero, hcap, hgrp, hsel⟩ := h
  have hz := congrArg BitVec.toNat hzero
  have hg := congrArg BitVec.toNat hgrp
  have hs := congrArg BitVec.toNat hsel
  simp only [BitVec.extractLsb'_toNat, Nat.shiftRight_eq_div_pow] at hz hg hs
  simp only [BitVec.getLsbD, Nat.testBit_eq_decide_div_mod_eq, decide_eq_decide] at hcap
  bv_omega

theorem fields_handleLoadOf (d : Half) (sel : BitVec 2) :
    (handleLoadOf d (channelOfSel sel)).fields = ⟨0#3, false, 2#2, sel⟩ := by
  rcases bitVec2_cases sel with rfl | rfl | rfl | rfl <;> rfl

theorem fields_rawReadOf (cap : Bool) (sel : BitVec 2) :
    (rawReadOf cap (channelOfSel sel)).fields = ⟨0#3, cap, 1#2, sel⟩ := by
  rcases bitVec2_cases sel with rfl | rfl | rfl | rfl <;> cases cap <;> rfl

theorem fields_operationOf {sel : BitVec 2} (h : sel ≠ 0#2) : (operationOf sel).fields = ⟨0#3, false, 0#2, sel⟩ := by
  rcases bitVec2_cases sel with rfl | rfl | rfl | rfl
  · exact absurd rfl h
  all_goals rfl

/-- A word that decodes has the fields of its instruction: the decoder loses none of them (R80, R82). -/
theorem splitFields_of_decode {c : Byte} {d : Half} {i : Instr} (h : decode c d = .ok i) : splitFields c = i.fields := by
  unfold decode at h
  generalize splitFields c = f at h ⊢
  obtain ⟨zero, cap, grp, sel⟩ := f
  simp only at h
  iterate 4
    split at h
    · cases h
  rename_i hz hc hg hs
  have hzero : zero = 0#3 := by simpa [CmdFields.zeroOk] using hz
  have hcap : cap = true → grp = 1#2 := by simpa [CmdFields.capOk] using hc
  have hgrp : grp ≠ 3#2 := by simpa [CmdFields.grpOk] using hg
  have hsel : grp = 0#2 → sel ≠ 0#2 := by simpa [CmdFields.selOk] using hs
  split at h
  · cases h
    simp_all [fields_operationOf]
  split at h
  · cases h
    simp_all [fields_rawReadOf]
  · cases h
    have hgrp2 : grp = 2#2 := by rcases bitVec2_cases grp with h | h | h | h <;> simp_all
    simp_all [fields_handleLoadOf]

/-- The word that decodes to an instruction is the one R81 gives it. -/
theorem opcode_of_decode {c : Byte} {d : Half} {i : Instr} (h : decode c d = .ok i) : opcode i = c :=
  splitFields_injective ((splitFields_opcode i).trans (splitFields_of_decode h).symm)

/-! ### What a command and an answer can do -/

/-- `GETRGB` writes the normalized registers only. -/
@[simp] theorem normalizedHandle_raw (h : Handle) (ch : Channel) : (normalizedHandle h).raw ch = h.raw ch := by
  unfold normalizedHandle; split <;> cases ch <;> rfl

/-- All that a command can do in the step that accepts it: `INIT` and the raw reads begin a sequence (R25), every
other command writes at most the handle and emits its `Done`. -/
theorem effect_cases (i : Instr) (s : State) :
    (i = .init ∧ effect i s = startInit s) ∨
    (i.fields.grp = 1#2 ∧ effect i s = startRawRead (opcode i) s) ∨
    (i ≠ .init ∧ ∃ v h, effect i s = respond (opcode i) v { s with handle := h } ∧
      (h = normalizedHandle s.handle ∨ h.r = s.handle.r ∧ h.g = s.handle.g ∧ h.b = s.handle.b)) := by
  cases i with
  | init => exact .inl ⟨rfl, rfl⟩
  | getrawR | getrawG | getrawB | getrawC | getrawcR | getrawcG | getrawcB | getrawcC =>
    exact .inr (.inl ⟨rfl, rfl⟩)
  | getrgb =>
    refine .inr (.inr ⟨by simp, 0#16, normalizedHandle s.handle, ?_, .inl rfl⟩)
    simp [effect, normalizeRaw_eq, opcode]
  | detect => exact .inr (.inr ⟨by simp, _, s.handle, rfl, .inr ⟨rfl, rfl, rfl⟩⟩)
  | setrawR n | setrawG n | setrawB n | setrawC n => exact .inr (.inr ⟨by simp, 0#16, _, rfl, .inr ⟨rfl, rfl, rfl⟩⟩)

/-- R112 on the expected ID. -/
theorem initStep1_match {b : Byte} {s : State} (h : b = s.cfg.expectedId) :
    initStep1 b s = goto .init2 (memWrite s.cfg.regAtime s.cfg.atime2_4ms s) := if_pos h

/-- R112 on any other ID. -/
theorem initStep1_mismatch {b : Byte} {s : State} (h : b ≠ s.cfg.expectedId) :
    initStep1 b s = finish 0x01#8 0x0000#16 (raise (.deviceNotDetected b) s) := if_neg h

/-- No event changes a parameter (R33) or a delivery still to come. -/
theorem Handles.cfg_inbox {s t : State} {e : EnvEvent} (h : Handles s e t) : t.cfg = s.cfg ∧ t.inbox = s.inbox := by
  cases h with
  | busy => exact ⟨rfl, rfl⟩
  | command c d i =>
    rcases effect_cases i s with ⟨-, he⟩ | ⟨-, he⟩ | ⟨-, v, h, he, -⟩ <;> rw [he] <;> exact ⟨rfl, rfl⟩
  | init1 b =>
    by_cases hb : b = s.cfg.expectedId
    · rw [initStep1_match hb]; exact ⟨rfl, rfl⟩
    · rw [initStep1_mismatch hb]; exact ⟨rfl, rfl⟩
  | init2 | init4 | init5 | init7 => simp [initStep2, initStep4, initStep5, initStep7]
  | rdWait => simp [readEnd_eq]
  | illegal | init3 | init6 | init8 | rdLo | rdHi | reset => exact ⟨rfl, rfl⟩

/-- An event moves `SEQ` along the table of R25, a reset aside. -/
theorem Handles.seq_mem_seqMoves {s t : State} {e : EnvEvent} (h : Handles s e t) (hr : ∀ b, e ≠ .reset b) :
    t.seq ∈ seqMoves s.seq := by
  cases h with
  | busy => cases s.seq <;> simp [seqMoves]
  | command c d i hq =>
    rcases effect_cases i s with ⟨-, he⟩ | ⟨-, he⟩ | ⟨-, v, h, he, -⟩ <;>
      simp [he, hq, seqMoves, startInit, startRawRead]
  | illegal c d e hq => simp [hq, seqMoves]
  | init1 b hq =>
    by_cases hb : b = s.cfg.expectedId
    · simp [initStep1_match hb, hq, seqMoves]
    · simp [initStep1_mismatch hb, hq, seqMoves]
  | init2 _ hq | init4 _ hq | init5 _ hq | init7 _ hq =>
    simp [initStep2, initStep4, initStep5, initStep7, hq, seqMoves]
  | init3 hq | init6 hq | init8 hq => simp [initStep3, initStep6, initStep8, hq, seqMoves]
  | rdLo _ hq | rdHi _ hq => simp [readLow, readHigh, hq, seqMoves]
  | rdWait hq => simp [readEnd_eq, hq, seqMoves]
  | reset b => exact absurd rfl (hr b)

theorem seq_mem_seqMoves_self (q : Seq) : q ∈ seqMoves q := by
  cases q <;> simp [seqMoves]

/-- Settles O40: every way of handling an event moves `SEQ` along the table. -/
theorem seqMovesAlongItsTable : Obligations.SeqMovesAlongItsTable := by
  intro s t h hr
  rcases step_cases h with ⟨-, rfl⟩ | ⟨e, rest, hi, hh⟩
  · exact seq_mem_seqMoves_self _
  · exact hh.seq_mem_seqMoves fun b hb => hr b rest (hb ▸ hi)

end Sys2Proof.Machine
end

section
/-! PROOFS. O48 and O49: the invariant, one lemma for each of its parts. -/
namespace Sys2Proof.Machine

/-- Settles O48: after reset nothing is in progress, no flag is set, and the handle is that of clear 0. -/
theorem invariantHoldsAtReset : Obligations.InvariantHoldsAtReset where
  request := rfl
  readWord h := absurd h (by decide)
  flags := by unfold FlagsDescribeLastInit; decide
  normalized := ⟨0, 0, 0, 0, by decide⟩
  trace _ he := absurd he List.not_mem_nil

/-- The request outstanding after an event is the one the new `SEQ` names (R24, R31). -/
theorem Handles.requestMatchesSeq {s t : State} {e : EnvEvent} (h : Handles s e t) (hs : RequestMatchesSeq s) :
    RequestMatchesSeq t := by
  unfold RequestMatchesSeq State.issued at hs ⊢
  cases h with
  | busy => exact hs
  | command c d i hq =>
    rcases effect_cases i s with ⟨-, he⟩ | ⟨-, he⟩ | ⟨-, v, h, he, -⟩
    · simp [he, startInit]
    · simp [he, startRawRead]
    · simpa [he, hq] using hs
  | illegal c d e hq => simpa [hq] using hs
  | init1 b hq =>
    by_cases hb : b = s.cfg.expectedId
    · simp [initStep1_match hb]
    · simp [initStep1_mismatch hb]
  | init2 | init4 | init5 | init7 => simp [initStep2, initStep4, initStep5, initStep7]
  | init3 | init6 | init8 => simp [initStep3, initStep6, initStep8]
  | rdLo | rdHi => simp [readLow, readHigh]
  | rdWait => simp [readEnd_eq]
  | reset => simp

/-- The word of a raw read carries the channel and the capture flag that its acceptance sets (R80, R139). -/
theorem readWordMatches_startRawRead {i : Instr} (hg : i.fields.grp = 1#2) (s : State) :
    ReadWordMatches (startRawRead (opcode i) s) := by
  intro _
  refine ⟨?_, ?_, rfl, rfl⟩
  · change (splitFields (opcode i)).zero = 0#3
    rw [splitFields_opcode]; cases i <;> rfl
  · change (splitFields (opcode i)).grp = 1#2
    rw [splitFields_opcode, hg]

/-- The remembered word is set by the acceptance of a raw read and kept until its end (R139). -/
theorem Handles.readWordMatches {s t : State} {e : EnvEvent} (h : Handles s e t) (hs : ReadWordMatches s) :
    ReadWordMatches t := by
  cases h with
  | busy => exact hs
  | command c d i hq =>
    rcases effect_cases i s with ⟨-, he⟩ | ⟨hg, he⟩ | ⟨-, v, h, he, -⟩
    · simp [he, ReadWordMatches, startInit]
    · rw [he]; exact readWordMatches_startRawRead hg s
    · simp [he, ReadWordMatches, hq]
  | illegal c d e hq => simp [ReadWordMatches, hq]
  | init1 b hq =>
    by_cases hb : b = s.cfg.expectedId
    · simp [initStep1_match hb, ReadWordMatches]
    · simp [initStep1_mismatch hb, ReadWordMatches]
  | init2 | init4 | init5 | init7 => simp [initStep2, initStep4, initStep5, initStep7, ReadWordMatches]
  | init3 | init6 | init8 => simp [initStep3, initStep6, initStep8, ReadWordMatches]
  | rdLo _ hq => exact fun _ => hs (.inl hq)
  | rdHi _ hq => exact fun _ => hs (.inr (.inl hq))
  | rdWait => simp [readEnd_eq, ReadWordMatches]
  | reset => simp [ReadWordMatches]

/-- The flags go on describing the last `INIT` (R111, R200): acceptance clears the five, each answer sets its own. -/
theorem Handles.flagsDescribeLastInit {s t : State} {e : EnvEvent} (h : Handles s e t)
    (hs : FlagsDescribeLastInit s) : FlagsDescribeLastInit t := by
  unfold FlagsDescribeLastInit at hs ⊢
  cases h with
  | busy => exact hs
  | command c d i hq =>
    rcases effect_cases i s with ⟨-, he⟩ | ⟨-, he⟩ | ⟨-, v, h, he, -⟩
    · simp [he, startInit]
    · simpa [he, startRawRead] using hs.1
    · simpa [he] using hs
  | illegal c d e hq => simpa using hs
  | init1 b hq =>
    by_cases hb : b = s.cfg.expectedId
    · rw [initStep1_match hb]; simp_all
    · rw [initStep1_mismatch hb]; simp_all [ErrorCause.mark]
  | init2 st hq | init4 st hq | init5 st hq | init7 st hq =>
    by_cases hst : st = 0#8 <;> simp_all [initStep2, initStep4, initStep5, initStep7]
  | init3 hq | init6 hq | init8 hq => simp_all [initStep3, initStep6, initStep8]
  | rdLo _ hq | rdHi _ hq => simp_all [readLow, readHigh]
  | rdWait hq => simpa [readEnd_eq] using hs.1
  | reset => simp [Flags.reset]

/-- `Norm` fits its 40 bits: it is `floor(x * 255 * 65536 / c)` (R151). -/
theorem toNat_normValue (x c : Half) : (normValue x c).toNat = x.toNat * 255 * 65536 / c.toNat := by
  have hx : x.toNat * 255 * 65536 < 2 ^ 40 := by have := x.isLt; omega
  simp only [normValue, Config.fullScale, Config.frac, BitVec.toNat_ofNat]
  exact Nat.mod_eq_of_lt ((Nat.div_le_self ..).trans_lt hx)

/-- What `GETRGB` leaves is the normalization of the raw registers it reads (R150, R152). -/
theorem toNat_normalizedHandle (h : Handle) :
    (normalizedHandle h).r.toNat = normalizedValue h.rRaw.toNat h.cRaw.toNat ∧
    (normalizedHandle h).g.toNat = normalizedValue h.gRaw.toNat h.cRaw.toNat ∧
    (normalizedHandle h).b.toNat = normalizedValue h.bRaw.toNat h.cRaw.toNat := by
  by_cases hc : h.cRaw = 0#16
  · simp [normalizedHandle, normalizedValue, hc]
  · have hc' : h.cRaw.toNat ≠ 0 := fun h0 => hc (BitVec.eq_of_toNat_eq h0)
    simp [normalizedHandle, normalizedValue, hc, hc', toNat_normValue]

/-- Only `GETRGB` and reset write the normalized registers (R184, R185). -/
theorem Handles.normalizedFromRaw {s t : State} {e : EnvEvent} (h : Handles s e t) (hs : NormalizedFromRaw s) :
    NormalizedFromRaw t := by
  unfold NormalizedFromRaw at hs ⊢
  cases h with
  | busy | illegal => exact hs
  | command c d i =>
    rcases effect_cases i s with ⟨-, he⟩ | ⟨-, he⟩ | ⟨-, v, h, he, rfl | ⟨hr, hg, hb⟩⟩
    · simpa [he, startInit] using hs
    · simpa [he, startRawRead] using hs
    · rw [he]; exact ⟨_, _, _, _, toNat_normalizedHandle s.handle⟩
    · simpa [he, hr, hg, hb] using hs
  | init1 b =>
    by_cases hb : b = s.cfg.expectedId
    · simpa [initStep1_match hb] using hs
    · simpa [initStep1_mismatch hb] using hs
  | init2 | init4 | init5 | init7 => simpa [initStep2, initStep4, initStep5, initStep7] using hs
  | init3 | init6 | init8 | rdLo | rdHi => exact hs
  | rdWait =>
    by_cases hc : s.hidden.capf = true <;> simpa [readEnd_eq, hc] using hs
  | reset => exact ⟨0, 0, 0, 0, by simp [Handle.reset, normalizedValue]⟩

/-- What an event makes the block emit is on the list of R89, R90 and R204. -/
theorem Handles.emits {s t : State} {e : EnvEvent} (h : Handles s e t) :
    ∃ new, t.trace = s.trace ++ new ∧ ∀ x ∈ new, emittable s.cfg x := by
  cases h with
  | busy => exact ⟨[], by simp⟩
  | command c d i =>
    rcases effect_cases i s with ⟨-, he⟩ | ⟨-, he⟩ | ⟨-, v, h, he, -⟩
    · rw [he]; exact ⟨_, rfl, by simp [emittable, Request.event, busAddress]⟩
    · rw [he]; refine ⟨_, rfl, ?_⟩
      cases cmdChannel (opcode i) <;> simp [emittable, Request.event, busAddress, regL]
    · rw [he]; exact ⟨_, rfl, by simp [emittable]⟩
  | illegal c d e hq hd =>
    refine ⟨[.diag 0x03#8 c, .done c 0#16], by simp, ?_⟩
    simpa [emittable] using fun d' => ⟨e, decode_error_any hd d'⟩
  | init1 b =>
    by_cases hb : b = s.cfg.expectedId
    · rw [initStep1_match hb]; exact ⟨_, rfl, by simp [emittable, Request.event, busAddress]⟩
    · rw [initStep1_mismatch hb]
      exact ⟨[.diag 0x01#8 b, .done 0x01#8 0#16], by simp [ErrorCause.diag], by simp [emittable, hb]⟩
  | init2 st | init4 st | init5 st | init7 st =>
    simp only [initStep2, initStep4, initStep5, initStep7, goto_trace, delay_trace, memWrite_trace, checkStatus_trace,
      checkStatus_cfg, List.append_assoc]
    refine ⟨_, rfl, ?_⟩
    by_cases hst : st = 0#8 <;> simp [hst, emittable, WriteStep.number]
  | init3 | init6 | init8 | rdHi => exact ⟨_, rfl, by simp [emittable, Request.event, busAddress, Config.delayMs]⟩
  | rdLo =>
    refine ⟨_, rfl, ?_⟩
    cases s.hidden.ch <;> simp [emittable, Request.event, busAddress, regH]
  | rdWait => exact ⟨[.done s.hidden.cmd s.hidden.val], by simp [readEnd_eq, emittable]⟩
  | reset => exact ⟨[], by simp⟩

/-- Everything emitted stays within the list (R52, R53, R90, R204): the parameters do not change. -/
theorem Handles.traceWithinList {s t : State} {e : EnvEvent} (h : Handles s e t) (hs : TraceWithinList s) :
    TraceWithinList t := by
  obtain ⟨new, htrace, hnew⟩ := h.emits
  intro x hx
  rw [htrace] at hx
  rw [h.cfg_inbox.1]
  exact (List.mem_append.mp hx).elim (hs x) (hnew x)

/-- Handling an event keeps the invariant. -/
theorem Handles.inv {s t : State} {e : EnvEvent} (h : Handles s e t) (hs : s.Inv) : t.Inv where
  request := h.requestMatchesSeq hs.request
  readWord := h.readWordMatches hs.readWord
  flags := h.flagsDescribeLastInit hs.flags
  normalized := h.normalizedFromRaw hs.normalized
  trace := h.traceWithinList hs.trace

/-- The invariant does not depend on what the environment will deliver. -/
theorem State.Inv.withInbox {s : State} (hs : s.Inv) (l : List EnvEvent) : State.Inv { s with inbox := l } :=
  ⟨hs.request, hs.readWord, hs.flags, hs.normalized, hs.trace⟩

/-- Settles O49: a step does nothing or handles one event, which keeps each part of the invariant. -/
theorem stepKeepsInvariant : Obligations.StepKeepsInvariant := by
  intro s t hs h
  rcases step_cases h with ⟨-, rfl⟩ | ⟨e, rest, -, hh⟩
  · exact hs
  · exact hh.inv (hs.withInbox rest)

end Sys2Proof.Machine
end

section
/-! PROOFS. O36, O38 and O39: what a step does to each register and to each bit of `STATUS`. -/
namespace Sys2Proof.Machine

/-! ### Frames -/

/-- Settles O36: a command offered while busy changes nothing, and the effect of each of the six is a `Done` and at
most a write of its own handle registers. -/
theorem atomicCommandFrame : Obligations.AtomicCommandFrame := by
  intro s t i h hi
  rw [exec_eq_accept] at h
  obtain ⟨-, rfl⟩ | ⟨-, rfl⟩ := accept_next h
  · have hnorm := normalizedHandle_raw s.handle
    rcases hi with rfl | rfl | ⟨n, rfl | rfl | rfl | rfl⟩
    · simpa [effect] using ⟨hnorm .red, hnorm .green, hnorm .blue, hnorm .clear⟩
    all_goals simp [effect, Handle.setRaw]
  · simp

/-! ### The bits of `STATUS` -/

/-- A flag stands in its own bit of `STATUS` and in no other. -/
theorem getElem_flagBit (f : Bool) (k i : Nat) (h : i < 8) : (flagBit f k)[i] = (f && decide (k = i)) := by
  cases f <;> simp [flagBit, BitVec.getElem_twoPow, eq_comm]

/-- The failure flag of a write (R192). -/
def Flags.txf (f : Flags) : WriteStep → Bool
  | .atime => f.txfAtime
  | .gain => f.txfGain
  | .pon => f.txfPon
  | .aen => f.txfAen

/-- The state that awaits the status of a write (R24). -/
def WriteStep.seq : WriteStep → Seq
  | .atime => .init2
  | .gain => .init4
  | .pon => .init5
  | .aen => .init7

/-- Each of the four states awaits the status of its own write. -/
theorem WriteStep.eq_seq_iff (w : WriteStep) :
    (.init2 = w.seq ↔ .atime = w) ∧ (.init4 = w.seq ↔ .gain = w) ∧ (.init5 = w.seq ↔ .pon = w) ∧
    (.init7 = w.seq ↔ .aen = w) := by
  cases w <;> simp [WriteStep.seq]

@[simp] theorem clearInitErrors_flag_txf (f : Flags) (w : WriteStep) : f.clearInitErrors.txf w = false := by
  cases w <;> rfl

@[simp] theorem setTxf_txf (f : Flags) (w w' : WriteStep) : (f.setTxf w).txf w' = (f.txf w' || w == w') := by
  cases w' <;> simp [Flags.txf]

@[simp] theorem txf_with_initDone (f : Flags) (b : Bool) (w : WriteStep) :
    { f with initDone := b }.txf w = f.txf w := by cases w <;> rfl

@[simp] theorem txf_with_dnd (f : Flags) (b : Bool) (w : WriteStep) : { f with dnd := b }.txf w = f.txf w := by
  cases w <;> rfl

@[simp] theorem txf_with_ill (f : Flags) (b : Bool) (w : WriteStep) : { f with ill := b }.txf w = f.txf w := by
  cases w <;> rfl

/-- The delivery is an `INIT` that the block accepts (R83). -/
def AcceptsInit (s : State) (e : EnvEvent) : Prop := s.seq = .idle ∧ ∃ d, e = .cmd 0x01#8 d

/-- The word 0x01 is that of `INIT` and of no other command (R81). -/
theorem opcode_eq_init_iff (i : Instr) : opcode i = 0x01#8 ↔ i = .init := by
  cases i <;> simp [opcode]

/-- An `INIT` is accepted exactly when the word delivered in `IDLE` decodes to it. -/
theorem acceptsInit_cmd_iff {s : State} {c : Byte} {d : Half} {i : Instr} (hq : s.seq = .idle)
    (hd : decode c d = .ok i) : AcceptsInit s (.cmd c d) ↔ i = .init := by
  rw [← opcode_eq_init_iff, opcode_of_decode hd]
  simp [AcceptsInit, hq]

theorem not_acceptsInit_of_error {s : State} {c : Byte} {d : Half} {x : DecodeError}
    (hd : decode c d = .error x) : ¬ AcceptsInit s (.cmd c d) := by
  rintro ⟨-, d', h⟩
  cases h
  have hok : decode 0x01#8 d = .ok .init := rfl
  cases hok.symm.trans hd

/-- The rows of R26: what sets and what clears each flag when the delivery `e` leads from `s` to `t`. -/
structure FlagsFollowTable (s : State) (e : EnvEvent) (t : State) : Prop where
  /-- Set at the end of `INIT_8`, cleared by nothing (R27). -/
  initDone : t.flags.initDone = true ↔ s.flags.initDone = true ∨ s.seq = .init8 ∧ e = .dDone
  /-- Set by an ID that does not match, cleared by the next `INIT` (R111, R112). -/
  dnd : t.flags.dnd = true ↔ ¬ AcceptsInit s e ∧
    (s.flags.dnd = true ∨ s.seq = .init1 ∧ ∃ b, e = .tRspByte b ∧ b ≠ s.cfg.expectedId)
  /-- Set by a failed write, cleared by the next `INIT` (R111, R192). -/
  txf : ∀ w, t.flags.txf w = true ↔ ¬ AcceptsInit s e ∧
    (s.flags.txf w = true ∨ s.seq = w.seq ∧ ∃ st, e = .tRspStatus st ∧ st ≠ 0#8)
  /-- Set by an illegal word in `IDLE`, cleared by nothing (R86). -/
  ill : t.flags.ill = true ↔ s.flags.ill = true ∨ s.seq = .idle ∧ ∃ c d x, e = .cmd c d ∧ decode c d = .error x

/-- Every event but a reset treats the flags as R26 says. -/
theorem Handles.flagsFollowTable {s t : State} {e : EnvEvent} (h : Handles s e t) (hr : ∀ b, e ≠ .reset b) :
    FlagsFollowTable s e t := by
  cases h with
  | busy c d hq => constructor <;> simp [AcceptsInit, hq]
  | command c d i hq hd =>
    have ha := acceptsInit_cmd_iff hq hd
    rcases effect_cases i s with ⟨rfl, he⟩ | ⟨hg, he⟩ | ⟨hi, v, h, he, -⟩
    · constructor <;> simp [he, ha, hd, startInit]
    · have hi : i ≠ .init := by rintro rfl; cases hg
      constructor <;> simp [he, ha, hd, hi, startRawRead]
    · constructor <;> simp [he, ha, hd, hi]
  | illegal c d x hq hd => constructor <;> simp [not_acceptsInit_of_error hd, hd, hq]
  | init1 b hq =>
    by_cases hb : b = s.cfg.expectedId
    · rw [initStep1_match hb]
      constructor <;> simp [hb, AcceptsInit]
    · rw [initStep1_mismatch hb]
      constructor <;> simp [hb, hq, AcceptsInit, ErrorCause.mark]
  | init2 st hq | init4 st hq | init5 st hq | init7 st hq =>
    by_cases hst : st = 0#8
    · constructor <;> simp [initStep2, initStep4, initStep5, initStep7, hst, AcceptsInit]
    · constructor <;> simp [initStep2, initStep4, initStep5, initStep7, hst, hq, AcceptsInit, WriteStep.eq_seq_iff]
  | init3 hq | init6 hq | init8 hq => constructor <;> simp [initStep3, initStep6, initStep8, hq, AcceptsInit]
  | rdLo _ hq | rdHi _ hq => constructor <;> simp [readLow, readHigh, hq, AcceptsInit]
  | rdWait hq => constructor <;> simp [readEnd_eq, hq, AcceptsInit]
  | reset b => exact absurd rfl (hr b)

/-- Settles O38: the layout bit by bit, then each flag by its own rule. -/
theorem statusBitsFollowTheTable : Obligations.StatusBitsFollowTheTable := by
  constructor
  · intro s
    simp [State.status, State.busy, getElem_flagBit]
  · intro s t e rest acceptsInit hstep hi hr ha
    rcases step_cases hstep with ⟨hnil, -⟩ | ⟨e', rest', hi', h⟩
    · cases hnil.symm.trans hi
    · cases hi.symm.trans hi'
      have ha' : acceptsInit = false ↔ ¬ AcceptsInit { s with inbox := rest } e := by
        rw [← Bool.not_eq_true, ha]; rfl
      simp only [ha']
      obtain ⟨hdone, hdnd, htxf, hill⟩ := h.flagsFollowTable hr
      exact ⟨hdone, hdnd, htxf .atime, htxf .gain, htxf .pon, htxf .aen, hill⟩

/-! ### Runs -/

/-- A run of `k + 1` steps that answers a state began with a step that did. -/
theorem run_succ_next {k : Nat} {s u : State} (h : run (k + 1) s = .next u) :
    ∃ t, step s = .next t ∧ run k t = .next u := by
  cases hs : step s with
  | next t => exact ⟨t, rfl, (run_succ k hs).symm.trans h⟩
  | fault r => simp [run, hs] at h
  | refused r => simp [run, hs] at h

/-- A step keeps the parameters, delivers nothing twice, and a reset aside clears neither `INIT_DONE` nor `ILL`. -/
theorem step_keeps_initDone_ill {s t : State} (h : step s = .next t) :
    t.cfg = s.cfg ∧ t.inbox ⊆ s.inbox ∧ ((∀ b, EnvEvent.reset b ∉ s.inbox) →
      (s.flags.initDone = true → t.flags.initDone = true) ∧ (s.flags.ill = true → t.flags.ill = true)) := by
  rcases step_cases h with ⟨-, rfl⟩ | ⟨e, rest, hi, hh⟩
  · exact ⟨rfl, List.Subset.refl _, fun _ => ⟨id, id⟩⟩
  · obtain ⟨hcfg, hinbox⟩ := hh.cfg_inbox
    refine ⟨hcfg, hinbox ▸ hi ▸ List.subset_cons_self e rest, fun hno => ?_⟩
    have hr : ∀ b, e ≠ .reset b := fun b hb => hno b (hi ▸ hb ▸ List.mem_cons_self)
    have htable := hh.flagsFollowTable hr
    exact ⟨fun hs => htable.initDone.mpr (.inl hs), fun hs => htable.ill.mpr (.inl hs)⟩

/-- Settles O39, by induction on the length of the run. -/
theorem onlyResetClearsInitDone : Obligations.OnlyResetClearsInitDone := by
  intro k
  induction k with
  | zero => rintro s _ ⟨⟩; exact ⟨rfl, fun _ => ⟨id, id⟩⟩
  | succ k ih =>
    intro s u h
    obtain ⟨t, hst, htu⟩ := run_succ_next h
    obtain ⟨hcfg, hsub, hflags⟩ := step_keeps_initDone_ill hst
    obtain ⟨hcfg', hflags'⟩ := ih t u htu
    refine ⟨hcfg'.trans hcfg, fun hno => ?_⟩
    obtain ⟨hdone, hill⟩ := hflags hno
    obtain ⟨hdone', hill'⟩ := hflags' fun b hb => hno b (hsub hb)
    exact ⟨hdone' ∘ hdone, hill' ∘ hill⟩

end Sys2Proof.Machine
end

section
/-! PROOFS. O43 and O44: a command in progress ends with the answers it awaits. -/
namespace Sys2Proof.Machine

/-! ### One delivery, taken or refused -/

/-- The reason a delivery is refused for, when it is (R206, R221). -/
def refusalOf (s : State) (e : EnvEvent) : Refusal :=
  match e, s.outstanding with
  | .reset _, some q => .resetLeavesRequestOutstanding q
  | e, _ => .unsolicitedResponse s.seq e

/-- A delivery that may be made is handled. -/
theorem exists_handles_of_mayDeliver {s : State} {e : EnvEvent} (h : s.mayDeliver e = true) : ∃ t, Handles s e t := by
  cases e with
  | cmd c d =>
    by_cases hq : s.seq = .idle
    · cases hd : decode c d with
      | ok i => exact ⟨_, .command c d i hq hd⟩
      | error x => exact ⟨_, .illegal c d x hq hd⟩
    · exact ⟨_, .busy c d hq⟩
  | reset b =>
    simp only [State.mayDeliver, Bool.or_eq_true, Option.isNone_iff_eq_none] at h
    exact ⟨_, .reset b h.symm⟩
  | tRspByte b =>
    simp only [State.mayDeliver, Bool.or_eq_true, beq_iff_eq] at h
    obtain (h | h) | h := h
    exacts [⟨_, .init1 b h⟩, ⟨_, .rdLo b h⟩, ⟨_, .rdHi b h⟩]
  | tRspStatus st =>
    simp only [State.mayDeliver, Bool.or_eq_true, beq_iff_eq] at h
    obtain ((h | h) | h) | h := h
    exacts [⟨_, .init2 st h⟩, ⟨_, .init4 st h⟩, ⟨_, .init5 st h⟩, ⟨_, .init7 st h⟩]
  | dDone =>
    simp only [State.mayDeliver, Bool.or_eq_true, beq_iff_eq] at h
    obtain ((h | h) | h) | h := h
    exacts [⟨_, .init3 h⟩, ⟨_, .init6 h⟩, ⟨_, .init8 h⟩, ⟨_, .rdWait h⟩]

/-- Any other delivery is refused by name. -/
theorem deliver_of_not_mayDeliver {s : State} {e : EnvEvent} (h : s.mayDeliver e = false) :
    deliver e s = .refused (refusalOf s e) := by
  cases e with
  | cmd => cases h
  | reset b => cases ho : s.outstanding <;> simp_all [State.mayDeliver, deliver, onReset, refusalOf]
  | tRspByte b => cases hq : s.seq <;> simp_all [State.mayDeliver, deliver, onByte, refusalOf]
  | tRspStatus st => cases hq : s.seq <;> simp_all [State.mayDeliver, deliver, onStatus, refusalOf]
  | dDone => cases hq : s.seq <;> simp_all [State.mayDeliver, deliver, onDelayDone, refusalOf]

theorem refusalOf_answer {s : State} {e : EnvEvent} (h : e.isAnswer = true) :
    refusalOf s e = .unsolicitedResponse s.seq e := by
  cases e with
  | tRspByte | tRspStatus | dDone => rfl
  | cmd | reset => cases h

/-! ### The walk of a command -/

/-- The most answers a command in progress may still await (R25). -/
def answersLeft : Seq → Nat
  | .idle => 0
  | .init1 => 8
  | .init2 => 7
  | .init3 => 6
  | .init4 => 5
  | .init5 => 4
  | .init6 => 3
  | .init7 => 2
  | .init8 => 1
  | .rdLo => 3
  | .rdHi => 2
  | .rdWait => 1

theorem answersLeft_le (q : Seq) : answersLeft q ≤ 8 := by
  cases q <;> decide

/-- The command has ended: no request is outstanding and one `Done` more has been emitted (R31, R87). -/
def EndsWithDone (s t : State) : Prop := t.seq = .idle ∧ t.outstanding = none ∧ t.doneCount = s.doneCount + 1

/-- The command goes on, with fewer answers to come and no `Done` yet. -/
def GoesOn (s t : State) : Prop :=
  t.seq ≠ .idle ∧ answersLeft t.seq < answersLeft s.seq ∧ t.doneCount = s.doneCount

/-- An answer brings the command in progress nearer its end. -/
theorem Handles.ends_or_goesOn {s t : State} {e : EnvEvent} (h : Handles s e t) (he : e.isAnswer = true) :
    EndsWithDone s t ∨ GoesOn s t := by
  cases h with
  | busy | command | illegal | reset => cases he
  | init1 b hq =>
    by_cases hb : b = s.cfg.expectedId
    · rw [initStep1_match hb]
      exact .inr (by simp [GoesOn, hq, answersLeft, State.doneCount, BlockEvent.isDone])
    · rw [initStep1_mismatch hb]
      exact .inl (by simp [EndsWithDone, State.doneCount, ErrorCause.diag, BlockEvent.isDone])
  | init2 st hq | init4 st hq | init5 st hq | init7 st hq =>
    refine .inr ?_
    by_cases hst : st = 0#8 <;>
      simp [GoesOn, initStep2, initStep4, initStep5, initStep7, hq, hst, answersLeft, State.doneCount, BlockEvent.isDone]
  | init3 hq | init6 hq =>
    exact .inr (by simp [GoesOn, initStep3, initStep6, hq, answersLeft, State.doneCount, BlockEvent.isDone])
  | rdLo _ hq | rdHi _ hq =>
    exact .inr (by simp [GoesOn, readLow, readHigh, hq, answersLeft, State.doneCount, BlockEvent.isDone])
  | init8 => exact .inl (by simp [EndsWithDone, initStep8, State.doneCount, BlockEvent.isDone])
  | rdWait => exact .inl (by simp [EndsWithDone, readEnd_eq, State.doneCount, BlockEvent.isDone])

/-- After the first of the answers a command awaits, it awaits the others (R25, R112). -/
theorem Handles.answersToEnd_tail {s t : State} {e : EnvEvent} {l : List EnvEvent} (h : Handles s e t)
    (he : e.isAnswer = true) (hl : answersToEnd s.cfg.expectedId s.seq (e :: l) = true) :
    answersToEnd s.cfg.expectedId t.seq l = true := by
  cases h with
  | busy | command | illegal | reset => cases he
  | init1 b hq =>
    by_cases hb : b = s.cfg.expectedId
    · rw [initStep1_match hb]
      simpa [hq, answersToEnd, hb] using hl
    · rw [initStep1_mismatch hb]
      have hnil : l = [] := by simpa [hq, answersToEnd, hb] using hl
      simp [hnil, answersToEnd]
  | init2 _ hq | init4 _ hq | init5 _ hq | init7 _ hq =>
    simpa [hq, answersToEnd, initStep2, initStep4, initStep5, initStep7] using hl
  | init3 hq | init6 hq => simpa [hq, answersToEnd, initStep3, initStep6] using hl
  | rdLo _ hq | rdHi _ hq => simpa [hq, answersToEnd, readLow, readHigh] using hl
  | init8 hq | rdWait hq =>
    have hnil : l = [] := by simpa [hq, answersToEnd] using hl
    simp [hnil, answersToEnd, initStep8, readEnd_eq]

theorem answersToEnd_idle_iff {id : Byte} {l : List EnvEvent} : answersToEnd id .idle l = true ↔ l = [] := by
  cases l <;> simp [answersToEnd]

/-- A step on an answer: taken if the state awaits it, refused if not. -/
theorem step_answer {s : State} {e : EnvEvent} {l : List EnvEvent} (hi : s.inbox = e :: l) (he : e.isAnswer = true) :
    (∃ t, step s = .next t ∧ Handles { s with inbox := l } e t ∧ (EndsWithDone s t ∨ GoesOn s t)) ∨
    (s.mayDeliver e = false ∧ step s = .refused (.unsolicitedResponse s.seq e)) := by
  rw [step_cons hi, ← refusalOf_answer he]
  cases hmay : s.mayDeliver e with
  | true =>
    obtain ⟨t, ht⟩ := exists_handles_of_mayDeliver (s := { s with inbox := l }) hmay
    exact .inl ⟨t, deliver_next_iff.mpr ht, ht, ht.ends_or_goesOn he⟩
  | false => exact .inr ⟨rfl, deliver_of_not_mayDeliver (s := { s with inbox := l }) hmay⟩

/-- With at least as many answers delivered as the walk may await, a command ends or an answer is refused. -/
theorem command_ends_or_refused {n : Nat} {s : State} {answers rest : List EnvEvent} (hq : s.seq ≠ .idle)
    (hi : s.inbox = answers ++ rest) (hlen : answers.length = n) (hleft : answersLeft s.seq ≤ n)
    (hans : ∀ e ∈ answers, e.isAnswer = true) :
    (∃ k t, k ≤ n ∧ run k s = .next t ∧ t.seq = .idle ∧ t.doneCount = s.doneCount + 1) ∨
    ∃ k u e l, k < n ∧ run k s = .next u ∧ u.seq ≠ .idle ∧ u.inbox = e :: l ∧ u.mayDeliver e = false ∧
      step u = .refused (.unsolicitedResponse u.seq e) := by
  induction n generalizing s answers with
  | zero => cases hs : s.seq <;> simp_all [answersLeft]
  | succ n ih =>
    obtain ⟨e, l, rfl⟩ := List.exists_cons_of_length_eq_add_one hlen
    obtain ⟨he, hl⟩ := List.forall_mem_cons.mp hans
    rcases step_answer hi he with ⟨t, hstep, hh, ⟨hidle, -, hdone⟩ | ⟨hbusy, hless, hdone⟩⟩ | ⟨hmay, hstep⟩
    · exact .inl ⟨1, t, by omega, run_succ 0 hstep, hidle, hdone⟩
    · have hlen' : l.length = n := by simpa using hlen
      rcases ih hbusy hh.cfg_inbox.2 hlen' (by omega) hl with
        ⟨k, u, hk, hrun, hu, hudone⟩ | ⟨k, u, x, m, hk, hrun, hu⟩
      · exact .inl ⟨k + 1, u, by omega, (run_succ k hstep).trans hrun, hu, hdone ▸ hudone⟩
      · exact .inr ⟨k + 1, u, x, m, by omega, (run_succ k hstep).trans hrun, hu⟩
    · exact .inr ⟨0, s, e, l ++ rest, by omega, rfl, hq, hi, hmay, hstep⟩

theorem isAnswer_iff (e : EnvEvent) : e.isAnswer = true ↔ (∀ c d, e ≠ .cmd c d) ∧ ∀ b, e ≠ .reset b := by
  cases e <;> simp [EnvEvent.isAnswer]

/-- Settles O43: no walk awaits more than eight answers. -/
theorem commandEndsWithinEightAnswers : Obligations.CommandEndsWithinEightAnswers := by
  intro s answers rest hq hi hlen hans
  exact command_ends_or_refused hq hi hlen (answersLeft_le _) fun e he => (isAnswer_iff e).mpr (hans e he)

/-- Settles O44, by induction on the answers. -/
theorem awaitedAnswersEndTheCommand : Obligations.AwaitedAnswersEndTheCommand := by
  intro s answers rest hq hi hans
  induction answers generalizing s with
  | nil => cases hs : s.seq <;> simp_all [answersToEnd]
  | cons e l ih =>
    obtain ⟨he, hmay⟩ := answersToEnd_mayDeliver hans
    rcases step_answer hi he with ⟨t, hstep, hh, hcase⟩ | ⟨hno, -⟩
    · have hinbox := hh.cfg_inbox.2
      have htail := hh.answersToEnd_tail he hans
      rcases hcase with ⟨hidle, hout, hdone⟩ | ⟨hbusy, -, hdone⟩
      · rw [hidle, answersToEnd_idle_iff] at htail
        subst htail
        refine ⟨⟨t, run_succ 0 hstep, hidle, hout, hinbox, hdone⟩, fun k hk => ?_⟩
        obtain rfl : k = 0 := by simpa using hk
        exact ⟨s, rfl, hq, rfl⟩
      · rw [← hh.cfg_inbox.1] at htail
        obtain ⟨⟨u, hrun, hidle, hout, hrest, hudone⟩, hbefore⟩ := ih t hbusy hinbox htail
        refine ⟨⟨u, (run_succ _ hstep).trans hrun, hidle, hout, hrest, hdone ▸ hudone⟩, fun k hk => ?_⟩
        cases k with
        | zero => exact ⟨s, rfl, hq, rfl⟩
        | succ k =>
          obtain ⟨u, hrun, hu, hudone⟩ := hbefore k (by simpa using hk)
          exact ⟨u, (run_succ k hstep).trans hrun, hu, hudone.trans hdone⟩
    · cases hmay.symm.trans hno

end Sys2Proof.Machine
end

section
/-! PROOFS. O50 and O51: what no run can show, by simulation. -/
namespace Sys2Proof.Machine

/-! ### Simulation -/

/-- Two outcomes that agree: next states in the relation `R`, or the same refusal. -/
inductive Agree (R : State → State → Prop) :
    Host.Outcome State Fault Refusal → Host.Outcome State Fault Refusal → Prop where
  | next {s t : State} (h : R s t) : Agree R (.next s) (.next t)
  | refused (r : Refusal) : Agree R (.refused r) (.refused r)

/-- `R` relates states that await, owe and expect the same, and every event keeps them related. -/
structure Simulation (R : State → State → Prop) : Prop where
  seq : ∀ {s s'}, R s s' → s'.seq = s.seq
  outstanding : ∀ {s s'}, R s s' → s'.outstanding = s.outstanding
  inbox : ∀ {s s'}, R s s' → s'.inbox = s.inbox
  withInbox : ∀ {s s'} (l : List EnvEvent), R s s' → R { s with inbox := l } { s' with inbox := l }
  handles : ∀ {s s' e t}, R s s' → Handles s e t → ∃ t', Handles s' e t' ∧ R t t'

/-- What may be delivered depends on `SEQ` and the outstanding request only. -/
theorem mayDeliver_congr {s s' : State} (hseq : s'.seq = s.seq) (hout : s'.outstanding = s.outstanding) (e : EnvEvent) :
    s'.mayDeliver e = s.mayDeliver e := by
  cases e <;> simp [State.mayDeliver, hseq, hout]

/-- So does the reason of a refusal. -/
theorem refusalOf_congr {s s' : State} (hseq : s'.seq = s.seq) (hout : s'.outstanding = s.outstanding) (e : EnvEvent) :
    refusalOf s' e = refusalOf s e := by
  unfold refusalOf; rw [hseq, hout]

theorem Simulation.deliver {R : State → State → Prop} (hR : Simulation R) {s s' : State} (h : R s s') (e : EnvEvent) :
    Agree R (deliver e s) (deliver e s') := by
  cases hmay : s.mayDeliver e with
  | true =>
    obtain ⟨t, ht⟩ := exists_handles_of_mayDeliver hmay
    obtain ⟨t', ht', hrel⟩ := hR.handles h ht
    rw [deliver_next_iff.mpr ht, deliver_next_iff.mpr ht']
    exact .next hrel
  | false =>
    have hmay' := (mayDeliver_congr (hR.seq h) (hR.outstanding h) e).trans hmay
    rw [deliver_of_not_mayDeliver hmay, deliver_of_not_mayDeliver hmay',
      refusalOf_congr (hR.seq h) (hR.outstanding h)]
    exact .refused _

theorem Simulation.step {R : State → State → Prop} (hR : Simulation R) {s s' : State} (h : R s s') :
    Agree R (step s) (step s') := by
  have hinbox := hR.inbox h
  cases hi : s.inbox with
  | nil => rw [step_nil hi, step_nil (hinbox.trans hi)]; exact .next h
  | cons e l => rw [step_cons hi, step_cons (hinbox.trans hi)]; exact hR.deliver (hR.withInbox l h) e

/-- Runs of any length from related states agree. -/
theorem Simulation.run {R : State → State → Prop} (hR : Simulation R) (k : Nat) {s s' : State} (h : R s s') :
    Agree R (run k s) (run k s') := by
  induction k generalizing s s' with
  | zero => exact .next h
  | succ k ih =>
    have hstep := hR.step h
    unfold Machine.run
    generalize Machine.step s = o, Machine.step s' = o' at hstep ⊢
    cases hstep with
    | next h => exact ih h
    | refused r => exact .refused r

/-! ### The flags -/

/-- The states differ in the stored flags at most. -/
def SameButFlags (s s' : State) : Prop := ∃ f, s' = s.withFlags f

theorem sameButFlags_checkStatus (w : WriteStep) (st : Byte) (s : State) (f : Flags) :
    checkStatus w st (s.withFlags f) = (checkStatus w st s).withFlags (if st = 0#8 then f else f.setTxf w) := by
  unfold checkStatus; split <;> rfl

theorem sameButFlags_effect (i : Instr) (s : State) (f : Flags) :
    SameButFlags (effect i s) (effect i (s.withFlags f)) := by
  cases i with
  | init => exact ⟨f.clearInitErrors, rfl⟩
  | getrgb => exact ⟨f, by simp only [effect, normalizeRaw_eq]; rfl⟩
  | detect | getrawR | getrawG | getrawB | getrawC | getrawcR | getrawcG | getrawcB | getrawcC | setrawR | setrawG
  | setrawB | setrawC => exact ⟨f, rfl⟩

theorem sameButFlags_initStep1 (b : Byte) (s : State) (f : Flags) :
    SameButFlags (initStep1 b s) (initStep1 b (s.withFlags f)) := by
  by_cases hb : b = s.cfg.expectedId
  · rw [initStep1_match hb, initStep1_match (s := s.withFlags f) hb]; exact ⟨f, rfl⟩
  · rw [initStep1_mismatch hb, initStep1_mismatch (s := s.withFlags f) hb]; exact ⟨{ f with dnd := true }, rfl⟩

/-- No event is handled otherwise for the flags it finds (R28, R29). -/
theorem simulation_sameButFlags : Simulation SameButFlags where
  seq := by rintro s _ ⟨f, rfl⟩; rfl
  outstanding := by rintro s _ ⟨f, rfl⟩; rfl
  inbox := by rintro s _ ⟨f, rfl⟩; rfl
  withInbox := by rintro s _ l ⟨f, rfl⟩; exact ⟨f, rfl⟩
  handles := by
    rintro s _ e t ⟨f, rfl⟩ h
    cases h with
    | busy c d hq => exact ⟨_, .busy c d hq, f, rfl⟩
    | command c d i hq hd => exact ⟨_, .command c d i hq hd, sameButFlags_effect i s f⟩
    | illegal c d x hq hd => exact ⟨_, .illegal c d x hq hd, { f with ill := true }, rfl⟩
    | init1 b hq => exact ⟨_, .init1 b hq, sameButFlags_initStep1 b s f⟩
    | init2 st hq => exact ⟨_, .init2 st hq, _, by rw [initStep2, sameButFlags_checkStatus]; rfl⟩
    | init3 hq => exact ⟨_, .init3 hq, f, rfl⟩
    | init4 st hq => exact ⟨_, .init4 st hq, _, by rw [initStep4, sameButFlags_checkStatus]; rfl⟩
    | init5 st hq => exact ⟨_, .init5 st hq, _, by rw [initStep5, sameButFlags_checkStatus]; rfl⟩
    | init6 hq => exact ⟨_, .init6 hq, f, rfl⟩
    | init7 st hq => exact ⟨_, .init7 st hq, _, by rw [initStep7, sameButFlags_checkStatus]; rfl⟩
    | init8 hq => exact ⟨_, .init8 hq, { f with initDone := true }, rfl⟩
    | rdLo b hq => exact ⟨_, .rdLo b hq, f, rfl⟩
    | rdHi b hq => exact ⟨_, .rdHi b hq, f, rfl⟩
    | rdWait hq => exact ⟨_, .rdWait hq, f, by rw [readEnd_eq, readEnd_eq]; rfl⟩
    | reset b ho => exact ⟨_, .reset b ho, Flags.reset, rfl⟩

/-- Settles O51: the runs simulate each other, flags aside. -/
theorem noStepReadsAFlag : Obligations.NoStepReadsAFlag := by
  intro k s f g
  have h := simulation_sameButFlags.run k (s := s) ⟨f, rfl⟩
  generalize run k s = o, run k (s.withFlags f) = o' at h ⊢
  cases h with
  | next h => obtain ⟨f, rfl⟩ := h; rfl
  | refused r => rfl

/-! ### The hidden registers -/

/-- The hidden registers that will be read before they are written, in each state of `SEQ`, are the same (R31): none
outside a raw read, then channel, capture flag and word, with the low byte, and with the assembled value. -/
def SameLiveHidden (h h' : Hidden) : Seq → Prop
  | .rdLo => h'.ch = h.ch ∧ h'.capf = h.capf ∧ h'.cmd = h.cmd
  | .rdHi => h'.ch = h.ch ∧ h'.capf = h.capf ∧ h'.cmd = h.cmd ∧ h'.lo = h.lo
  | .rdWait => h'.ch = h.ch ∧ h'.capf = h.capf ∧ h'.cmd = h.cmd ∧ h'.val = h.val
  | .idle | .init1 | .init2 | .init3 | .init4 | .init5 | .init6 | .init7 | .init8 => True

/-- The states differ at most in hidden registers that will not be read before they are written. -/
def SameButDeadHidden (s s' : State) : Prop := ∃ h, s' = { s with hidden := h } ∧ SameLiveHidden s.hidden h s.seq

theorem sameButDeadHidden_checkStatus (w : WriteStep) (st : Byte) (s : State) (h : Hidden) :
    checkStatus w st { s with hidden := h } = { checkStatus w st s with hidden := h } := by
  unfold checkStatus; split <;> rfl

theorem sameButDeadHidden_effect (i : Instr) {s : State} (h : Hidden) (hq : s.seq = .idle) :
    SameButDeadHidden (effect i s) (effect i { s with hidden := h }) := by
  cases i with
  | init => exact ⟨h, rfl, trivial⟩
  | getrgb => exact ⟨h, by simp only [effect, normalizeRaw_eq]; rfl, by simp [effect, hq, SameLiveHidden]⟩
  | detect | setrawR | setrawG | setrawB | setrawC => exact ⟨h, rfl, by simp [effect, hq, SameLiveHidden]⟩
  | getrawR | getrawG | getrawB | getrawC | getrawcR | getrawcG | getrawcB | getrawcC =>
    exact ⟨_, rfl, rfl, rfl, rfl⟩

theorem sameButDeadHidden_initStep1 (b : Byte) (s : State) (h : Hidden) :
    SameButDeadHidden (initStep1 b s) (initStep1 b { s with hidden := h }) := by
  by_cases hb : b = s.cfg.expectedId
  · rw [initStep1_match hb, initStep1_match (s := { s with hidden := h }) hb]; exact ⟨h, rfl, trivial⟩
  · rw [initStep1_mismatch hb, initStep1_mismatch (s := { s with hidden := h }) hb]; exact ⟨h, rfl, trivial⟩

/-- Every event writes the hidden registers it makes live and reads live ones only. -/
theorem simulation_sameButDeadHidden : Simulation SameButDeadHidden where
  seq := by rintro s _ ⟨h, rfl, -⟩; rfl
  outstanding := by rintro s _ ⟨h, rfl, -⟩; rfl
  inbox := by rintro s _ ⟨h, rfl, -⟩; rfl
  withInbox := by rintro s _ l ⟨h, rfl, hl⟩; exact ⟨h, rfl, hl⟩
  handles := by
    rintro s _ e t ⟨h, rfl, hl⟩ hh
    cases hh with
    | busy c d hq => exact ⟨_, .busy c d hq, h, rfl, hl⟩
    | command c d i hq hd => exact ⟨_, .command c d i hq hd, sameButDeadHidden_effect i h hq⟩
    | illegal c d x hq hd => exact ⟨_, .illegal c d x hq hd, h, rfl, by simp [hq, SameLiveHidden]⟩
    | init1 b hq => exact ⟨_, .init1 b hq, sameButDeadHidden_initStep1 b s h⟩
    | init2 st hq => exact ⟨_, .init2 st hq, h, by rw [initStep2, sameButDeadHidden_checkStatus]; rfl, trivial⟩
    | init3 hq => exact ⟨_, .init3 hq, h, rfl, trivial⟩
    | init4 st hq => exact ⟨_, .init4 st hq, h, by rw [initStep4, sameButDeadHidden_checkStatus]; rfl, trivial⟩
    | init5 st hq => exact ⟨_, .init5 st hq, h, by rw [initStep5, sameButDeadHidden_checkStatus]; rfl, trivial⟩
    | init6 hq => exact ⟨_, .init6 hq, h, rfl, trivial⟩
    | init7 st hq => exact ⟨_, .init7 st hq, h, by rw [initStep7, sameButDeadHidden_checkStatus]; rfl, trivial⟩
    | init8 hq => exact ⟨_, .init8 hq, h, rfl, trivial⟩
    | rdLo b hq =>
      rw [hq] at hl
      obtain ⟨hch, hcapf, hcmd⟩ := hl
      exact ⟨_, .rdLo b hq, { h with lo := b }, by simp only [readLow, hch]; rfl, hch, hcapf, hcmd, rfl⟩
    | rdHi b hq =>
      rw [hq] at hl
      obtain ⟨hch, hcapf, hcmd, hlo⟩ := hl
      exact ⟨_, .rdHi b hq, { h with val := assembleReading b h.lo }, rfl, hch, hcapf, hcmd, by rw [hlo]; rfl⟩
    | rdWait hq =>
      rw [hq] at hl
      obtain ⟨hch, hcapf, hcmd, hval⟩ := hl
      exact ⟨_, .rdWait hq, h, by simp [readEnd_eq, hch, hcapf, hcmd, hval], by simp [readEnd_eq, SameLiveHidden]⟩
    | reset b ho => exact ⟨_, .reset b ho, Hidden.reset, rfl, trivial⟩

/-- Settles O50: in `IDLE` no hidden register is live, and what is not live is never read. -/
theorem hiddenRegistersUnobservable : Obligations.HiddenRegistersUnobservable := by
  intro k s h hq
  have hsim := simulation_sameButDeadHidden.run k (s := s) ⟨h, rfl, by simp [hq, SameLiveHidden]⟩
  generalize run k s = o, run k { s with hidden := h } = o' at hsim ⊢
  cases hsim with
  | next hrel => obtain ⟨h, rfl, -⟩ := hrel; rfl
  | refused r => rfl

end Sys2Proof.Machine
end

section
/-! PROOFS. O41: what a step emits, and how many requests are among it. -/
namespace Sys2Proof.Machine

/-- Does the event carry a request (R15)? -/
def BlockEvent.isRequest : BlockEvent → Bool
  | .tReqRecv _ _ | .tReqXmit _ _ _ | .dReq _ => true
  | .diag _ _ | .done _ _ => false

@[simp] theorem Request.isRequest_event (q : Request) : q.event.isRequest = true := by
  cases q <;> rfl

/-- An event tells the request it carries. -/
theorem Request.event_injective {q q' : Request} (h : q.event = q'.event) : q = q' := by
  cases q <;> cases q' <;> cases h <;> rfl

/-- The list holds no request, or only the request `o`, once. -/
def OnlyRequestIs (o : Option Request) (new : List BlockEvent) : Prop :=
  new.filter BlockEvent.isRequest = [] ∨ ∃ q, o = some q ∧ new.filter BlockEvent.isRequest = [q.event]

/-- From `s` to `t` at most two events are emitted, and at most one of them is a request: the one then outstanding
(R31, R61). -/
def EmitsAtMostOneRequest (s t : State) : Prop :=
  ∃ new, t.trace = s.trace ++ new ∧ new.length ≤ 2 ∧ OnlyRequestIs t.outstanding new

theorem OnlyRequestIs.unique {o : Option Request} {new : List BlockEvent} {q : Request} (h : OnlyRequestIs o new)
    (hq : q.event ∈ new) : o = some q ∧ new.count q.event = 1 ∧ ∀ q' : Request, q'.event ∈ new → q' = q := by
  have hmem (p : Request) (hp : p.event ∈ new) : p.event ∈ new.filter BlockEvent.isRequest :=
    List.mem_filter.mpr ⟨hp, p.isRequest_event⟩
  rcases h with hnil | ⟨p, ho, hone⟩
  · exact absurd (hnil ▸ hmem q hq) List.not_mem_nil
  · have heq (p' : Request) (hp' : p'.event ∈ new) : p' = p :=
      Request.event_injective (List.mem_singleton.mp (hone ▸ hmem p' hp'))
    obtain rfl := heq q hq
    refine ⟨ho, ?_, heq⟩
    rw [← List.count_filter q.isRequest_event, hone, List.count_singleton_self]

/-- A request issued last, after at most one event that is none. -/
theorem emitsAtMostOneRequest_request {s u : State} {pre : List BlockEvent} (q : Request) (next : Seq)
    (htrace : u.trace = s.trace ++ pre) (hlen : pre.length ≤ 1) (hpre : pre.filter BlockEvent.isRequest = []) :
    EmitsAtMostOneRequest s (goto next (request q u)) :=
  ⟨pre ++ [q.event], by simp [request, htrace], by simpa using hlen, .inr ⟨q, rfl, by simp [hpre]⟩⟩

/-- The check of a write's status emits at most a `Diag`, before the request of the next state (R192). -/
theorem emitsAtMostOneRequest_checkStatus (w : WriteStep) (st : Byte) (s : State) (q : Request) (next : Seq) :
    EmitsAtMostOneRequest s (goto next (request q (checkStatus w st s))) := by
  refine emitsAtMostOneRequest_request q next (checkStatus_trace w st s) ?_ ?_ <;>
    by_cases hst : st = 0#8 <;> simp [hst, BlockEvent.isRequest]

/-- Handling an event issues at most one request, after at most one `Diag`. -/
theorem Handles.emitsAtMostOneRequest {s t : State} {e : EnvEvent} (h : Handles s e t) :
    EmitsAtMostOneRequest s t := by
  have hself : s.trace = s.trace ++ [] := (List.append_nil _).symm
  cases h with
  | busy | reset => exact ⟨[], hself, by simp, .inl rfl⟩
  | command c d i =>
    rcases effect_cases i s with ⟨-, he⟩ | ⟨-, he⟩ | ⟨-, v, h, he, -⟩ <;> rw [he]
    · exact emitsAtMostOneRequest_request _ _ hself (by simp) rfl
    · exact emitsAtMostOneRequest_request _ _ hself (by simp) rfl
    · exact ⟨[.done (opcode i) v], rfl, by simp, .inl rfl⟩
  | illegal c => exact ⟨[.diag 0x03#8 c, .done c 0#16], by simp, by simp, .inl rfl⟩
  | init1 b =>
    by_cases hb : b = s.cfg.expectedId
    · rw [initStep1_match hb]; exact emitsAtMostOneRequest_request _ _ hself (by simp) rfl
    · rw [initStep1_mismatch hb]
      exact ⟨[.diag 0x01#8 b, .done 0x01#8 0#16], by simp [ErrorCause.diag], by simp, .inl rfl⟩
  | init2 st | init4 st | init5 st | init7 st => exact emitsAtMostOneRequest_checkStatus _ st s _ _
  | init3 | init6 | rdLo | rdHi => exact emitsAtMostOneRequest_request _ _ hself (by simp) rfl
  | init8 => exact ⟨[.done 0x01#8 0#16], rfl, by simp, .inl rfl⟩
  | rdWait => exact ⟨[.done s.hidden.cmd s.hidden.val], by simp [readEnd_eq], by simp, .inl rfl⟩

/-- The block emits only on a command it accepts or on an answer its state awaits (R83, R206). -/
theorem Handles.accepted_or_awaited {s t : State} {e : EnvEvent} (h : Handles s e t) (ht : t.trace ≠ s.trace) :
    (s.seq = .idle ∧ ∃ c d, e = .cmd c d) ∨ (s.seq ≠ .idle ∧ s.mayDeliver e = true ∧ e.isAnswer = true) := by
  cases h with
  | busy | reset => exact absurd rfl ht
  | command c d _ hq | illegal c d _ hq => exact .inl ⟨hq, c, d, rfl⟩
  | init1 _ hq | init2 _ hq | init3 hq | init4 _ hq | init5 _ hq | init6 hq | init7 _ hq | init8 hq
  | rdLo _ hq | rdHi _ hq | rdWait hq => exact .inr (by simp [hq, State.mayDeliver, EnvEvent.isAnswer])

/-- Settles O41: a step does nothing or handles one event, which issues at most one request, and a step that emits
anything took a command or an awaited answer. -/
theorem oneRequestAtATime : Obligations.OneRequestAtATime := by
  intro s t h
  rcases step_cases h with ⟨-, rfl⟩ | ⟨e, rest, hi, hh⟩
  · exact ⟨[], by simp⟩
  · obtain ⟨new, htrace, hlen, hreq⟩ := hh.emitsAtMostOneRequest
    refine ⟨new, htrace, hlen, fun q hq => ?_⟩
    obtain ⟨hout, hcount, hunique⟩ := hreq.unique hq
    have hemits : t.trace ≠ s.trace := by
      simpa [htrace] using List.ne_nil_of_mem hq
    refine ⟨hout, hcount, hunique, e, rest, hi, (hh.accepted_or_awaited hemits).imp_right ?_⟩
    rintro ⟨hbusy, hmay, hans⟩
    exact ⟨hbusy, (mayDeliver_congr rfl rfl e).symm.trans hmay, (isAnswer_iff e).mp hans⟩

end Sys2Proof.Machine
end

section
/-! PROOFS. O9 to O12: the table of R81, decoded and encoded, and programs. -/
namespace Sys2Proof.Machine

/-! ### Words and instructions -/

/-- The word of an instruction decodes to it, whatever the operand word of a command that takes none (R81, R82). -/
theorem decode_opcode {i : Instr} {d : Half} (h : i.takesOperand = true → operandWord i = d) :
    decode (opcode i) d = .ok i := by
  unfold decode
  rw [splitFields_opcode]
  cases i with
  | setrawR n | setrawG n | setrawB n | setrawC n =>
    obtain rfl : n = d := h rfl
    rfl
  | init | getrgb | detect | getrawR | getrawG | getrawB | getrawC | getrawcR | getrawcG | getrawcB | getrawcC => rfl

/-- A handle load that decodes carries the operand word (R80). -/
theorem operandWord_of_decode {c : Byte} {d : Half} {i : Instr} (h : decode c d = .ok i) (hop : i.takesOperand = true) :
    operandWord i = d := by
  obtain rfl := opcode_of_decode h
  unfold decode at h
  rw [splitFields_opcode] at h
  cases i with
  | setrawR n | setrawG n | setrawB n | setrawC n => cases h; rfl
  | init | getrgb | detect | getrawR | getrawG | getrawB | getrawC | getrawcR | getrawcG | getrawcB | getrawcC =>
    cases hop

/-- The decoder, said once: a pair decodes to an instruction exactly when it is the instruction's word, with its
operand where it takes one. -/
theorem decode_eq_ok_iff {c : Byte} {d : Half} {i : Instr} :
    decode c d = .ok i ↔ opcode i = c ∧ (i.takesOperand = true → operandWord i = d) := by
  constructor
  · exact fun h => ⟨opcode_of_decode h, operandWord_of_decode h⟩
  · rintro ⟨rfl, hop⟩; exact decode_opcode hop

theorem decode_encode (i : Instr) : decode (encode i).1 (encode i).2 = .ok i := decode_opcode fun _ => rfl

/-- No instruction has an illegal word (R81, R85). -/
theorem wellFormed_of_instr (i : Instr) : i.wellFormed = true := by
  cases i <;> rfl

/-- Settles O11: both directions are the one equivalence. -/
theorem decodeEncodeAgree : Obligations.DecodeEncodeAgree := by
  refine ⟨fun i _ => decode_encode i, fun c d i h => ?_⟩
  obtain ⟨hc, hd⟩ := decode_eq_ok_iff.mp h
  exact ⟨wellFormed_of_instr i, hc.symm, fun hop => (hd hop).symm⟩

/-- Settles O9: each word is the `opcode` of its command. -/
theorem tableWordsDecode : Obligations.TableWordsDecode := by
  intro d
  simp [decode_eq_ok_iff, opcode, Instr.takesOperand, operandWord]

/-! ### Illegal words -/

/-- A word with well-formed fields decodes, with any operand. -/
theorem decode_of_wellFormed {c : Byte} (h : (splitFields c).wellFormed = true) (d : Half) :
    ∃ i, decode c d = .ok i := by
  simp only [CmdFields.wellFormed, Bool.and_eq_true] at h
  obtain ⟨⟨⟨hzero, hcap⟩, hgrp⟩, hsel⟩ := h
  simp only [decode, hzero, hcap, hgrp, hsel, Bool.not_true, Bool.false_eq_true, if_false]
  split
  · exact ⟨_, rfl⟩
  · split <;> exact ⟨_, rfl⟩

/-- A word is illegal exactly when its fields are not well formed (R85). -/
theorem exists_decode_error_iff (c : Byte) (d : Half) :
    (∃ e, decode c d = .error e) ↔ (splitFields c).wellFormed = false := by
  cases hd : decode c d with
  | ok i =>
    have hwf : (splitFields c).wellFormed = true := splitFields_of_decode hd ▸ wellFormed_of_instr i
    simp [hwf]
  | error e =>
    have hwf : ¬ (splitFields c).wellFormed = true := fun h => by
      obtain ⟨i, hi⟩ := decode_of_wellFormed h d
      cases hi.symm.trans hd
    simp [hwf]

/-- Words are told apart by their fields (R80). -/
theorem eq_iff_splitFields_eq {c c' : Byte} : c = c' ↔ splitFields c = splitFields c' :=
  ⟨congrArg splitFields, splitFields_injective⟩

/-- The words 0x0C to 0x0F are those of the reserved group with the other upper fields zero (R80, R85). -/
theorem mem_reservedGroup_iff (c : Byte) :
    c ∈ [0x0C#8, 0x0D#8, 0x0E#8, 0x0F#8] ↔
      (splitFields c).zero = 0#3 ∧ (splitFields c).cap = false ∧ (splitFields c).grp = 3#2 := by
  have h0 : splitFields 0x0C#8 = ⟨0#3, false, 3#2, 0#2⟩ := rfl
  have h1 : splitFields 0x0D#8 = ⟨0#3, false, 3#2, 1#2⟩ := rfl
  have h2 : splitFields 0x0E#8 = ⟨0#3, false, 3#2, 2#2⟩ := rfl
  have h3 : splitFields 0x0F#8 = ⟨0#3, false, 3#2, 3#2⟩ := rfl
  simp only [List.mem_cons, List.not_mem_nil, or_false, eq_iff_splitFields_eq, h0, h1, h2, h3]
  generalize splitFields c = f
  obtain ⟨zero, cap, grp, sel⟩ := f
  simp only [CmdFields.mk.injEq]
  have hsel := bitVec2_cases sel
  tauto

/-- Ill-formed fields, as R85 lists them. -/
theorem wellFormed_eq_false_iff (f : CmdFields) :
    f.wellFormed = false ↔ f.zero ≠ 0#3 ∨ (f.cap = true ∧ f.grp ≠ 1#2) ∨ (f.grp = 0#2 ∧ f.sel = 0#2) ∨ f.grp = 3#2 := by
  obtain ⟨zero, cap, grp, sel⟩ := f
  simp only [CmdFields.wellFormed, CmdFields.zeroOk, CmdFields.capOk, CmdFields.grpOk, CmdFields.selOk]
  cases cap <;> grind

/-- Settles O10: legal words through the table, illegal words through their fields. -/
theorem illegalWordsAreExactlyTheListed : Obligations.IllegalWordsAreExactlyTheListed := by
  intro c d
  constructor
  · constructor
    · rintro ⟨i, h⟩
      obtain rfl := opcode_of_decode h
      cases i <;> simp [opcode]
    · simp only [List.mem_cons, List.not_mem_nil, or_false]
      rintro (rfl | rfl | rfl | rfl | rfl | rfl | rfl | rfl | rfl | rfl | rfl | rfl | rfl | rfl | rfl) <;>
        exact ⟨_, rfl⟩
  · have h0 : splitFields 0x00#8 = ⟨0#3, false, 0#2, 0#2⟩ := rfl
    rw [exists_decode_error_iff, wellFormed_eq_false_iff, mem_reservedGroup_iff, eq_iff_splitFields_eq, h0]
    change _ ↔ (splitFields c).zero ≠ 0#3 ∨ ((splitFields c).cap = true ∧ (splitFields c).grp ≠ 1#2) ∨ _
    generalize splitFields c = f
    obtain ⟨zero, cap, grp, sel⟩ := f
    cases cap <;> grind

/-! ### Programs -/

/-- Legal lines assemble to the pairs of their commands (R91). -/
theorem assemble_of_legal {p : List AsmLine} (h : ∀ l ∈ p, l.wellFormed = true) :
    assemble p = some ((p.flatMap expandLine).map encode) :=
  if_pos (List.all_eq_true.mpr h)

/-- One line that is not legal, and nothing is assembled (R91). -/
theorem assemble_of_not_legal {p : List AsmLine} (h : ¬ ∀ l ∈ p, l.wellFormed = true) : assemble p = none :=
  if_neg (mt List.all_eq_true.mp h)

theorem exists_assemble_iff (p : List AsmLine) :
    (∃ ws, assemble p = some ws) ↔ ∀ l ∈ p, l.wellFormed = true := by
  by_cases h : ∀ l ∈ p, l.wellFormed = true
  · simpa only [assemble_of_legal h, Option.some.injEq, exists_eq', true_iff]
  · simpa only [assemble_of_not_legal h, reduceCtorEq, exists_false, false_iff]

theorem assemble_line {l : AsmLine} (h : l.wellFormed = true) : assemble [l] = some ((expandLine l).map encode) := by
  rw [assemble_of_legal (List.forall_mem_singleton.mpr h), List.flatMap_singleton]

theorem assemble_illegalLine {l : AsmLine} (h : l.wellFormed = false) : assemble [l] = none :=
  assemble_of_not_legal (by simp [h])

/-- A program is its lines one after the other. -/
theorem assemble_cons {l : AsmLine} {p : List AsmLine} (hl : l.wellFormed = true)
    (hp : ∀ l ∈ p, l.wellFormed = true) :
    assemble (l :: p) = some ((expandLine l).map encode ++ (p.flatMap expandLine).map encode) := by
  rw [assemble_of_legal (List.forall_mem_cons.mpr ⟨hl, hp⟩), List.flatMap_cons, List.map_append]

/-- Every pair of an assembled program is the encoding of a command, so it decodes. -/
theorem exists_decode_of_mem_assemble {p : List AsmLine} {ws : List (Byte × Half)} (h : assemble p = some ws)
    {w : Byte × Half} (hw : w ∈ ws) : ∃ i, decode w.1 w.2 = .ok i := by
  have hp := (exists_assemble_iff p).mp ⟨ws, h⟩
  rw [assemble_of_legal hp] at h
  cases h
  obtain ⟨i, -, rfl⟩ := List.mem_map.mp hw
  exact ⟨i, decode_encode i⟩

theorem takesOperand_eq_false_iff (i : Instr) :
    i.takesOperand = false ↔ i ∈ [.init, .getrgb, .detect, .getrawR, .getrawG, .getrawB, .getrawC, .getrawcR,
      .getrawcG, .getrawcB, .getrawcC] := by
  cases i <;> simp [Instr.takesOperand]

/-- The legal lines (R91, R92). -/
theorem legalLine_iff (l : AsmLine) : l.wellFormed = true ↔
    (∃ i, i ∈ [.init, .getrgb, .detect, .getrawR, .getrawG, .getrawB, .getrawC, .getrawcR, .getrawcG, .getrawcB,
      .getrawcC] ∧ l = .plain i) ∨
    (∃ ch n, n ≤ 65535 ∧ l = .load1 ch n) ∨ l = .poll ∨
    (∃ r g b c, r ≤ 65535 ∧ g ≤ 65535 ∧ b ≤ 65535 ∧ c ≤ 65535 ∧ l = .load r g b c) := by
  cases l with
  | plain i => simp only [← takesOperand_eq_false_iff]; simp [AsmLine.wellFormed]
  | load1 ch n => simp [AsmLine.wellFormed, operandOk]
  | poll => simp [AsmLine.wellFormed]
  | load r g b c => simp [AsmLine.wellFormed, operandOk, and_assoc]

/-- Settles O12: a line at a time, then by the legality of the head and of the tail. -/
theorem assembledProgramDecodes : Obligations.AssembledProgramDecodes := by
  refine ⟨?plain, ?load1, rfl, ?load, ?load1Range, ?loadRange, fun n => ⟨rfl, rfl, rfl, rfl⟩, rfl, ?cons, ?program⟩
  case plain =>
    intro i c h
    simp only [List.mem_cons, List.not_mem_nil, or_false, Prod.mk.injEq] at h
    rcases h with ⟨rfl, rfl⟩ | ⟨rfl, rfl⟩ | ⟨rfl, rfl⟩ | ⟨rfl, rfl⟩ | ⟨rfl, rfl⟩ | ⟨rfl, rfl⟩ | ⟨rfl, rfl⟩ |
      ⟨rfl, rfl⟩ | ⟨rfl, rfl⟩ | ⟨rfl, rfl⟩ | ⟨rfl, rfl⟩ <;> exact assemble_line rfl
  case load1 =>
    intro ch c h n hn
    simp only [List.mem_cons, List.not_mem_nil, or_false, Prod.mk.injEq] at h
    rcases h with ⟨rfl, rfl⟩ | ⟨rfl, rfl⟩ | ⟨rfl, rfl⟩ | ⟨rfl, rfl⟩ <;> exact assemble_line (decide_eq_true hn)
  case load =>
    intro r g b c
    have hok (x : Half) : operandOk x.toNat = true := decide_eq_true (Nat.le_of_lt_succ x.isLt)
    rw [assemble_line (by simp [AsmLine.wellFormed, hok])]
    simp [expandLine, encode, opcode, operandWord]
  case load1Range => exact fun ch n hn => assemble_illegalLine (decide_eq_false (Nat.not_le.mpr hn))
  case loadRange =>
    refine fun r g b c h => assemble_illegalLine ?_
    simp only [AsmLine.wellFormed, operandOk, Bool.and_eq_false_iff, decide_eq_false_iff_not]
    omega
  case cons =>
    intro l p
    cases hl : l.wellFormed with
    | false => rw [assemble_illegalLine hl, assemble_of_not_legal (by simp [hl])]
    | true =>
      by_cases hp : ∀ l ∈ p, l.wellFormed = true
      · rw [assemble_line hl, assemble_of_legal hp, assemble_cons hl hp]
      · rw [assemble_line hl, assemble_of_not_legal hp, assemble_of_not_legal (by simp [hl, hp])]
  case program =>
    intro p
    simp only [exists_assemble_iff, legalLine_iff, true_and]
    exact fun ws h w hw => exists_decode_of_mem_assemble h hw

end Sys2Proof.Machine
end

section
/-! PROOFS. O3, O4, O5, O13 and O42: what a delivered command does, and the `Done`s counted. -/
namespace Sys2Proof.Machine

/-! ### A delivered command -/

/-- A step with an event delivered answers exactly the states that event can lead to. -/
theorem step_next_iff {s t : State} {e : EnvEvent} {rest : List EnvEvent} (hi : s.inbox = e :: rest) :
    step s = .next t ↔ Handles { s with inbox := rest } e t := by
  rw [step_cons hi, deliver_next_iff]

/-- Settles O3: the command is accepted in `IDLE`. -/
theorem stepRunsDecodedCommand : Obligations.StepRunsDecodedCommand := by
  intro s c d i rest hq hi hd
  rw [exec_eq_accept, accept_idle (s := { s with inbox := rest }) hq]
  exact (step_next_iff hi).mpr (.command c d i hq hd)

/-- A table word decodes as the pair it is split into (log entry 13). -/
theorem decode_of_decodeTableWord {nbits w : Nat} {i : Instr} (h : decodeTableWord nbits w = some i) :
    decode (BitVec.ofNat 8 (w % 2 ^ nbits)) (BitVec.ofNat 16 ((w % 2 ^ nbits) >>> 8)) = .ok i := by
  simp only [decodeTableWord] at h
  split at h <;> cases h
  assumption

/-- Settles O4: the state with the word placed is idle and has the word's pair delivered first. -/
theorem stepRunsPlacedWord : Obligations.StepRunsPlacedWord := by
  intro s w i h
  exact stepRunsDecodedCommand (s.withFetchWord 8 w) _ _ i s.inbox rfl rfl (decode_of_decodeTableWord h)

/-- Settles O5: neither the delivery nor the acceptance of a command does anything outside `IDLE`. -/
theorem commandWhileBusyIsNotTaken : Obligations.CommandWhileBusyIsNotTaken := by
  intro s hq
  constructor
  · exact fun c d rest hi => (step_next_iff hi).mpr (.busy c d hq)
  · intro i
    rw [exec_eq_accept, accept_busy hq]

/-- All that an illegal word does (R86). -/
theorem illegalCommand_eq (c : Byte) (s : State) : illegalCommand c s = { s with
    flags := { s.flags with ill := true }
    trace := s.trace ++ [.diag 0x03#8 c, .done c 0x0000#16] } := by
  simp [illegalCommand, respond, emit, raise, ErrorCause.mark, ErrorCause.diag]

/-- Settles O13: the word is handled as illegal. -/
theorem illegalCommandEffects : Obligations.IllegalCommandEffects := by
  intro s c d e rest hq hi hd
  exact ((step_next_iff hi).mpr (.illegal c d e hq hd)).trans (congrArg _ (illegalCommand_eq ..))

/-! ### `Done`s counted -/

/-- One `Done` on every arrival in `IDLE`, and none on the way (R87): a command that completes at once arrives in the
step that accepts it. -/
theorem Handles.done_iff_idle {s t : State} {e : EnvEvent} (h : Handles s e t) (hr : ∀ b, e ≠ .reset b) :
    (t.seq = .idle ∧ t.doneCount = s.doneCount + 1) ∨ (t.seq ≠ .idle ∧ t.doneCount = s.doneCount) := by
  by_cases hans : e.isAnswer = true
  · rcases h.ends_or_goesOn hans with ⟨hidle, -, hdone⟩ | ⟨hbusy, -, hdone⟩
    · exact .inl ⟨hidle, hdone⟩
    · exact .inr ⟨hbusy, hdone⟩
  · cases h with
    | busy c d hq => exact .inr ⟨hq, rfl⟩
    | command c d i hq =>
      rcases effect_cases i s with ⟨-, he⟩ | ⟨-, he⟩ | ⟨-, v, h, he, -⟩ <;> rw [he]
      · exact .inr (by simp [startInit, State.doneCount, BlockEvent.isDone])
      · exact .inr (by simp [startRawRead, State.doneCount, BlockEvent.isDone])
      · exact .inl (by simp [hq, State.doneCount, BlockEvent.isDone])
    | illegal c d x hq => exact .inl (by simp [hq, State.doneCount, BlockEvent.isDone])
    | reset b => exact absurd rfl (hr b)
    | init1 | init2 | init3 | init4 | init5 | init6 | init7 | init8 | rdLo | rdHi | rdWait => exact absurd rfl hans

/-- An answer is handled only while a command is in progress (R24, R206). -/
theorem Handles.busy_of_answer {s t : State} {e : EnvEvent} (h : Handles s e t) (he : e.isAnswer = true) :
    s.seq ≠ .idle := by
  cases h with
  | busy | command | illegal | reset => cases he
  | init1 _ hq | init2 _ hq | init3 hq | init4 _ hq | init5 _ hq | init6 hq | init7 _ hq | init8 hq
  | rdLo _ hq | rdHi _ hq | rdWait hq => simp [hq]

/-- Settles O42: after any event but a reset, the `Done`s and the command in progress are one more than the `Done`s
before it; that one is the command accepted, or the command already in progress. -/
theorem oneDonePerAcceptedCommand : Obligations.OneDonePerAcceptedCommand := by
  intro s t e rest hstep hi hr
  have hh := (step_next_iff hi).mp hstep
  have hcount : t.doneCount = s.doneCount + (if t.seq = .idle then 1 else 0) ∧
      t.doneCount + (if t.seq = .idle then 0 else 1) = s.doneCount + 1 := by
    obtain ⟨hidle, hdone⟩ | ⟨hbusy, hdone⟩ := hh.done_iff_idle hr
    · rw [if_pos hidle, if_pos hidle]; exact ⟨hdone, hdone⟩
    · rw [if_neg hbusy, if_neg hbusy]; exact ⟨hdone, congrArg (· + 1) hdone⟩
  obtain ⟨hdone, hone⟩ := hcount
  refine ⟨hdone, hone.trans ?_⟩
  cases e with
  | cmd c d => by_cases hq : s.seq = .idle <;> simp [hq]
  | reset b => exact absurd rfl (hr b)
  | tRspByte | tRspStatus | dDone => simpa using hh.busy_of_answer rfl

end Sys2Proof.Machine
end

section
/-! PROOFS. O14 to O19 and O34: `INIT`, step by step and as a whole. -/
namespace Sys2Proof.Machine

/-! ### Acceptance -/

/-- Settles O14: the word 0x01 decodes to `INIT` with any operand, and `INIT` is accepted in `IDLE`. -/
theorem initAccepted : Obligations.InitAccepted := by
  intro s hq
  constructor
  · exact fun d rest hi => stepRunsDecodedCommand s 0x01#8 d .init rest hq hi rfl
  · rw [exec_eq_accept, accept_idle hq]; rfl

/-- Settles O34: an `INIT` that is accepted asks for the ID register, and one offered while busy changes nothing. -/
theorem initFrame : Obligations.InitFrame := by
  intro s t h
  rw [exec_eq_accept] at h
  rcases accept_next h with ⟨-, rfl⟩ | ⟨-, rfl⟩
  · exact ⟨rfl, rfl, rfl, rfl, rfl, rfl⟩
  · exact ⟨rfl, rfl, rfl, rfl, rfl, rfl⟩

/-! ### The ID check -/

/-- Settles O15: the awaited byte is handled, as a match or as a mismatch. -/
theorem initIdCheck : Obligations.InitIdCheck := by
  intro s id rest hq hi
  have hstep := (step_next_iff hi).mpr (.init1 id hq)
  constructor
  · intro hid
    rw [hstep, initStep1_match (s := { s with inbox := rest }) hid]; rfl
  · intro hid
    rw [hstep, initStep1_mismatch (s := { s with inbox := rest }) hid]
    simp [finish, raise, ErrorCause.mark, ErrorCause.diag]

/-! ### The writes -/

/-- The failure flag of a write after its status: set if the status is not zero, else as it was (R192). -/
def Flags.noteStatus (f : Flags) (st : Byte) : WriteStep → Flags
  | .atime => { f with txfAtime := f.txfAtime || st != 0#8 }
  | .gain => { f with txfGain := f.txfGain || st != 0#8 }
  | .pon => { f with txfPon := f.txfPon || st != 0#8 }
  | .aen => { f with txfAen := f.txfAen || st != 0#8 }

theorem Flags.noteStatus_zero (f : Flags) (w : WriteStep) : f.noteStatus 0#8 w = f := by
  cases w <;> simp [Flags.noteStatus]

theorem Flags.noteStatus_of_ne_zero {st : Byte} (h : st ≠ 0#8) (f : Flags) (w : WriteStep) :
    f.noteStatus st w = f.setTxf w := by
  cases w <;> simp [Flags.noteStatus, Flags.setTxf, h]

/-- What the status of a write leaves on record, zero or not (R192). -/
def noteStatus (w : WriteStep) (st : Byte) (s : State) : State := { s with
  flags := s.flags.noteStatus st w
  trace := s.trace ++ if st = 0#8 then [] else [.diag 0x02#8 w.number] }

theorem checkStatus_eq_noteStatus (w : WriteStep) (st : Byte) (s : State) : checkStatus w st s = noteStatus w st s := by
  rcases checkStatus_cases w st s with ⟨rfl, h⟩ | ⟨hst, h⟩
  · simp [h, noteStatus, Flags.noteStatus_zero]
  · simp [h, noteStatus, Flags.noteStatus_of_ne_zero hst, hst]

/-- How the sequence goes on after a write, whatever its status (R113, R115, R116, R118). -/
def afterWrite : WriteStep → State → State
  | .atime, s => goto .init3 (delay s)
  | .gain, s => goto .init5 (memWrite s.cfg.regEnable s.cfg.enPon s)
  | .pon, s => goto .init6 (delay s)
  | .aen, s => goto .init8 (delay s)

/-- The step on the status of a write records it and goes on. -/
theorem step_status (w : WriteStep) {s : State} {st : Byte} {rest : List EnvEvent}
    (hi : s.inbox = .tRspStatus st :: rest) (hq : s.seq = w.seq) :
    step s = .next (afterWrite w (noteStatus w st { s with inbox := rest })) := by
  rw [step_next_iff hi, ← checkStatus_eq_noteStatus]
  cases w with
  | atime => exact .init2 st hq
  | gain =>
    simpa only [initStep4, afterWrite, checkStatus_cfg] using Handles.init4 (s := { s with inbox := rest }) st hq
  | pon => exact .init5 st hq
  | aen => exact .init7 st hq

/-- Settles O16: each of the four states awaits the status of one write. -/
theorem initWriteSteps : Obligations.InitWriteSteps := fun _ _ _ hi =>
  ⟨step_status .atime hi, step_status .gain hi, step_status .pon hi, step_status .aen hi⟩

/-! ### The delays -/

/-- `INIT_DONE` is set by the end of the delay of `INIT_8` only: a reset clears it, and every other event follows the
table of R26. -/
theorem step_sets_initDone {s t : State} (h : step s = .next t) (hs : s.flags.initDone = false)
    (ht : t.flags.initDone = true) : s.seq = .init8 ∧ ∃ rest, s.inbox = .dDone :: rest := by
  rcases step_cases h with ⟨-, rfl⟩ | ⟨e, rest, hi, hh⟩
  · cases hs.symm.trans ht
  · have hr : ∀ b, e ≠ .reset b := by
      rintro b rfl
      cases hh
      cases ht
    rcases (hh.flagsFollowTable hr).initDone.mp ht with hdone | ⟨hq, rfl⟩
    · cases hs.symm.trans hdone
    · exact ⟨hq, rest, hi⟩

/-- Settles O17: the three awaited ends of a delay, and the one step that sets `INIT_DONE`. -/
theorem initDelaySteps : Obligations.InitDelaySteps :=
  ⟨fun _ _ => step_sets_initDone, fun _ _ hi =>
    ⟨fun hq => (step_next_iff hi).mpr (.init3 hq), fun hq => (step_next_iff hi).mpr (.init6 hq),
      fun hq => (step_next_iff hi).mpr (.init8 hq)⟩⟩

/-! ### Whole runs -/

/-- A run of `k + 1` steps handles the event delivered first and is then a run of `k`. -/
theorem run_handles (k : Nat) {s t : State} {e : EnvEvent} {rest : List EnvEvent} (hi : s.inbox = e :: rest)
    (h : Handles { s with inbox := rest } e t) : run (k + 1) s = run k t :=
  run_succ k ((step_next_iff hi).mpr h)

/-- Settles O19: the command, then a byte that does not match. -/
theorem initRunOnMismatch : Obligations.InitRunOnMismatch := by
  intro s d id rest hq hi hid
  calc run 2 s
    _ = run 1 _ := run_handles 1 hi (.command _ d .init hq rfl)
    _ = run 0 _ := run_succ 0 ((initIdCheck _ id rest rfl rfl).2 hid)
    _ = .next _ := by simp [run, effect, startInit, Flags.clearInitErrors]

/-- Settles O18: the command, the ID, and the four statuses and three ends of delays in the order of the walk. -/
theorem initRunOnMatch : Obligations.InitRunOnMatch := by
  intro s d s2 s4 s5 s7 rest hq hi
  calc run 9 s
    _ = run 8 _ := run_handles 8 hi (.command _ d .init hq rfl)
    _ = run 7 _ := run_succ 7 ((initIdCheck _ _ _ rfl rfl).1 rfl)
    _ = run 6 _ := run_succ 6 (step_status .atime rfl rfl)
    _ = run 5 _ := run_handles 5 rfl (.init3 rfl)
    _ = run 4 _ := run_succ 4 (step_status .gain rfl rfl)
    _ = run 3 _ := run_succ 3 (step_status .pon rfl rfl)
    _ = run 2 _ := run_handles 2 rfl (.init6 rfl)
    _ = run 1 _ := run_succ 1 (step_status .aen rfl rfl)
    _ = run 0 _ := run_handles 0 rfl (.init8 rfl)
    _ = .next _ := by
      simp [run, effect, startInit, initStep3, initStep6, initStep8, afterWrite, noteStatus, finish,
        Flags.noteStatus, Flags.clearInitErrors, WriteStep.number]

end Sys2Proof.Machine
end

section
/-! PROOFS. O20 to O23 and O35: the raw reads, step by step and as a whole. -/
namespace Sys2Proof.Machine

/-! ### Acceptance -/

/-- The raw reads of R131 to R138, in that order. -/
def rawReads : List Instr := [.getrawR, .getrawG, .getrawB, .getrawC, .getrawcR, .getrawcG, .getrawcB, .getrawcC]

/-- There is one raw read for each capture flag and channel. -/
theorem exists_rawReadOf {i : Instr} (h : i ∈ rawReads) : ∃ capf ch, i = rawReadOf capf ch := by
  simp only [rawReads, List.mem_cons, List.not_mem_nil, or_false] at h
  rcases h with rfl | rfl | rfl | rfl | rfl | rfl | rfl | rfl
  exacts [⟨false, .red, rfl⟩, ⟨false, .green, rfl⟩, ⟨false, .blue, rfl⟩, ⟨false, .clear, rfl⟩,
    ⟨true, .red, rfl⟩, ⟨true, .green, rfl⟩, ⟨true, .blue, rfl⟩, ⟨true, .clear, rfl⟩]

/-- The word of a raw read decodes to it with any operand (R82). -/
theorem decode_rawReadOf (capf : Bool) (ch : Channel) (d : Half) :
    decode (opcode (rawReadOf capf ch)) d = .ok (rawReadOf capf ch) := by
  apply decode_opcode
  cases capf <;> cases ch <;> exact fun h => nomatch h

/-- All that the acceptance of a raw read does (R139). -/
theorem effect_rawReadOf (capf : Bool) (ch : Channel) (s : State) : effect (rawReadOf capf ch) s = { s with
    seq := .rdLo
    hidden := { s.hidden with ch := ch, capf := capf, cmd := opcode (rawReadOf capf ch) }
    outstanding := some (.recv s.cfg.devAddr (s.cfg.cmdBit ||| regL s.cfg ch))
    trace := s.trace ++ [.tReqRecv s.cfg.devAddr (s.cfg.cmdBit ||| regL s.cfg ch)] } := by
  cases capf <;> cases ch <;> rfl

/-- Settles O20: each word is the word of the raw read with its flag and channel, which is accepted in `IDLE`. -/
theorem rawReadAccepted : Obligations.RawReadAccepted := by
  intro s hq i c capf ch low hrow
  obtain ⟨rfl, rfl, rfl⟩ : i = rawReadOf capf ch ∧ c = opcode (rawReadOf capf ch) ∧ low = regL s.cfg ch := by
    cases capf <;> cases ch <;> simpa [rawReadOf, opcode, regL] using hrow
  constructor
  · exact fun d rest hi => stepRunsDecodedCommand s _ d _ rest hq hi (decode_rawReadOf capf ch d)
  · rw [exec_eq_accept, accept_idle hq, effect_rawReadOf]

/-- Settles O35: a raw read that is accepted asks for the low byte, and one offered while busy changes nothing. -/
theorem rawReadFrame : Obligations.RawReadFrame := by
  intro s t i hi h
  obtain ⟨capf, ch, rfl⟩ := exists_rawReadOf hi
  rw [exec_eq_accept] at h
  rcases accept_next h with ⟨-, rfl⟩ | ⟨-, rfl⟩
  · rw [effect_rawReadOf]
    exact ⟨rfl, rfl, rfl, rfl, rfl, rfl⟩
  · exact ⟨rfl, rfl, rfl, rfl, rfl, rfl⟩

/-! ### The three steps that follow -/

/-- All that the low byte does (R140). -/
theorem readLow_eq (b : Byte) (s : State) : readLow b s = { s with
    seq := .rdHi
    hidden := { s.hidden with lo := b }
    outstanding := some (.recv s.cfg.devAddr (s.cfg.cmdBit ||| regH s.cfg s.hidden.ch))
    trace := s.trace ++ [.tReqRecv s.cfg.devAddr (s.cfg.cmdBit ||| regH s.cfg s.hidden.ch)] } := rfl

/-- All that the high byte does (R141). -/
theorem readHigh_eq (b : Byte) (s : State) : readHigh b s = { s with
    seq := .rdWait
    hidden := { s.hidden with val := b ++ s.hidden.lo }
    outstanding := some (.delay 3#8)
    trace := s.trace ++ [.dReq 3#8] } := by
  rw [← assembleReading_eq_append]; rfl

/-- Settles O21: the two awaited bytes and the awaited end of the delay are handled. -/
theorem rawReadSteps : Obligations.RawReadSteps := by
  intro s rest
  refine ⟨fun b high hq hi hrow => ?low, fun b hq hi => ?high, fun hq hi => ?wait⟩
  case low =>
    obtain rfl : high = regH s.cfg s.hidden.ch := by
      cases hch : s.hidden.ch <;> simpa [hch, regH] using hrow
    rw [(step_next_iff hi).mpr (.rdLo b hq), readLow_eq]
  case high =>
    rw [(step_next_iff hi).mpr (.rdHi b hq), readHigh_eq]
  case wait =>
    rw [(step_next_iff hi).mpr (.rdWait hq), readEnd_eq]
    cases s.hidden.capf <;> cases s.hidden.ch <;> rfl

/-! ### Whole runs -/

/-- A run goes on by one step with the event delivered next. -/
theorem run_snoc_handles {k : Nat} {s t u : State} {e : EnvEvent} {rest : List EnvEvent} (h : run k s = .next t)
    (hi : t.inbox = e :: rest) (hh : Handles { t with inbox := rest } e u) : run (k + 1) s = .next u :=
  (run_add k 1 h).trans (run_handles 0 hi hh)

/-- The run of a raw read on its three answers: the handle is as it was until the last step, which stores the reading
if it is captured. -/
theorem run_rawReadOf (capf : Bool) (ch : Channel) {s : State} {d : Half} {lo hi : Byte} {rest : List EnvEvent}
    (hq : s.seq = .idle)
    (hin : s.inbox = [.cmd (opcode (rawReadOf capf ch)) d, .tRspByte lo, .tRspByte hi, .dDone] ++ rest) :
    (∀ k, k < 4 → ∃ t, run k s = .next t ∧ t.handle = s.handle) ∧
    run 4 s = .next { s with
      inbox := rest
      outstanding := none
      handle := if capf = true then s.handle.setRaw (hi ++ lo) ch else s.handle
      hidden := ⟨ch, capf, lo, hi ++ lo, opcode (rawReadOf capf ch)⟩
      trace := s.trace ++
        [.tReqRecv s.cfg.devAddr (s.cfg.cmdBit ||| regL s.cfg ch),
         .tReqRecv s.cfg.devAddr (s.cfg.cmdBit ||| regH s.cfg ch),
         .dReq 3#8, .done (opcode (rawReadOf capf ch)) (hi ++ lo)] } := by
  have accepted : run 1 s = .next _ := run_handles 0 hin (.command _ d _ hq (decode_rawReadOf capf ch d))
  rw [effect_rawReadOf] at accepted
  have low := run_snoc_handles accepted rfl (.rdLo lo rfl)
  rw [readLow_eq] at low
  have high := run_snoc_handles low rfl (.rdHi hi rfl)
  rw [readHigh_eq] at high
  have ended := run_snoc_handles high rfl (.rdWait rfl)
  rw [readEnd_eq] at ended
  constructor
  · intro k hk
    interval_cases k
    exacts [⟨s, rfl, rfl⟩, ⟨_, accepted, rfl⟩, ⟨_, low, rfl⟩, ⟨_, high, rfl⟩]
  · simpa [hq] using ended

/-- Settles O22: each word is the word of the raw read with its flag and channel. -/
theorem rawReadRun : Obligations.RawReadRun := by
  intro s d lo hi rest c capf ch low high hq hin hrow
  obtain ⟨rfl, rfl, rfl⟩ : c = opcode (rawReadOf capf ch) ∧ low = regL s.cfg ch ∧ high = regH s.cfg ch := by
    cases capf <;> cases ch <;> simpa [rawReadOf, opcode, regL, regH] using hrow
  obtain ⟨before, ended⟩ := run_rawReadOf capf ch hq hin
  refine ⟨before, ended.trans ?_⟩
  cases capf <;> cases ch <;> rfl

/-- The answers of the environment that make a raw read yield `v`: low byte, high byte, end of the delay (R144). -/
def answersYielding (v : Half) : List EnvEvent := [.tRspByte (v.extractLsb' 0 8), .tRspByte (v.extractLsb' 8 8), .dDone]

/-- Settles O23: the environment answers with the two bytes of the value. -/
theorem anyReadingCanResult : Obligations.AnyReadingCanResult := by
  intro s v c hq hc
  obtain ⟨i, hi, rfl⟩ := List.mem_map.mp (show c ∈ rawReads.map opcode from hc)
  obtain ⟨capf, ch, rfl⟩ := exists_rawReadOf hi
  have hv : (v.extractLsb' 8 8 ++ v.extractLsb' 0 8 : BitVec (8 + 8)) = v :=
    BitVec.extractLsb'_append_extractLsb'
  have hrun := (run_rawReadOf capf ch
    (s := { s with inbox := .cmd (opcode (rawReadOf capf ch)) 0#16 :: answersYielding v }) (rest := []) hq rfl).2
  refine ⟨_, 4, _, hrun, hq, ?_⟩
  simp [hv]

end Sys2Proof.Machine
end

section
/-! PROOFS. O24 to O32: normalization and classification. -/
namespace Sys2Proof.Machine

/-! ### `Norm` as a number -/

/-- The numerator of R151 fits 40 bits (R155). -/
theorem numerator_lt (x : Half) : x.toNat * 255 * 65536 < 2 ^ 40 := by
  have := x.isLt
  omega

/-- Settles O25: the remainder of a division is discarded, and it is below the divisor. -/
theorem normIsExactFloor : Obligations.NormIsExactFloor := by
  intro x c hc
  have hpos : 0 < c.toNat := BitVec.toNat_pos_of_ne_zero hc
  rw [toNat_normValue]
  exact ⟨numerator_lt x, rfl, Nat.div_mul_le_self .., (Nat.div_lt_iff_lt_mul hpos).mp (Nat.lt_succ_self _),
    Nat.div_mul_cancel⟩

/-- `Norm` is the number `normalizedValue`, for a divisor 0 too, where Lean's division gives 0. -/
theorem toNat_normValue_eq_normalizedValue (x c : Half) :
    (normValue x c).toNat = normalizedValue x.toNat c.toNat := by
  rw [toNat_normValue, normalizedValue]
  split
  case isTrue h => rw [h, Nat.div_zero]
  case isFalse => rfl

/-- A unit of the numerator is worth at least one unit of the quotient, as the divisor is at most `255 * 65536`: the
reason why the fraction bits of R157 suffice. -/
theorem normalizedValue_strictMono {c : Nat} (hpos : 0 < c) (hc : c ≤ 255 * 65536) :
    StrictMono (normalizedValue · c) := by
  refine strictMono_nat_of_lt_succ fun x => ?_
  simp only [normalizedValue, if_neg hpos.ne']
  calc x * 255 * 65536 / c
    _ < x * 255 * 65536 / c + 1 := Nat.lt_succ_self _
    _ = (x * 255 * 65536 + c) / c := (Nat.add_div_right _ hpos).symm
    _ ≤ (x + 1) * 255 * 65536 / c := Nat.div_le_div_right (by omega)

theorem normalizedValue_strictMono_toNat {c : Half} (hc : c ≠ 0#16) : StrictMono (normalizedValue · c.toNat) :=
  normalizedValue_strictMono (BitVec.toNat_pos_of_ne_zero hc) (by have := c.isLt; omega)

/-! ### `Norm` and order -/

theorem normValue_lt_iff {c : Half} (hc : c ≠ 0#16) (x y : Half) : normValue x c < normValue y c ↔ x < y := by
  simp only [BitVec.lt_def, toNat_normValue_eq_normalizedValue]
  exact (normalizedValue_strictMono_toNat hc).lt_iff_lt

theorem normValue_le_iff {c : Half} (hc : c ≠ 0#16) (x y : Half) : normValue x c ≤ normValue y c ↔ x ≤ y := by
  simp only [BitVec.le_def, toNat_normValue_eq_normalizedValue]
  exact (normalizedValue_strictMono_toNat hc).le_iff_le

theorem normValue_inj {c : Half} (hc : c ≠ 0#16) (x y : Half) : normValue x c = normValue y c ↔ x = y := by
  simp only [← BitVec.toNat_inj, toNat_normValue_eq_normalizedValue]
  exact (normalizedValue_strictMono_toNat hc).injective.eq_iff

/-- `Norm` grows with its numerator and falls with its divisor. -/
theorem normValue_le_normValue {x y c d : Half} (hxy : x ≤ y) (hdc : d ≤ c) (hd : d ≠ 0#16) :
    normValue x c ≤ normValue y d := by
  simp only [BitVec.le_def, toNat_normValue] at hxy hdc ⊢
  exact Nat.div_le_div (by omega) hdc (BitVec.toNat_pos_of_ne_zero hd).ne'

/-- The value of a channel as bright as the clear channel is 255.0 (R153). -/
theorem normValue_self {c : Half} (hc : c ≠ 0#16) : normValue c c = 0x0000FF0000#40 := by
  apply BitVec.eq_of_toNat_eq
  rw [toNat_normValue, Nat.mul_assoc, Nat.mul_div_cancel_left _ (BitVec.toNat_pos_of_ne_zero hc)]
  rfl

theorem one_le_of_ne_zero {x : Half} (hx : x ≠ 0#16) : 1#16 ≤ x :=
  BitVec.toNat_pos_of_ne_zero hx

theorem le_max_half (x : Half) : x ≤ 65535#16 :=
  Nat.le_of_lt_succ x.isLt

/-- Settles O26: 255.0 is `Norm(c, c)`, and the extremes are at the extreme numerators and divisors. -/
theorem normIsNotClamped : Obligations.NormIsNotClamped := by
  refine ⟨fun x c hc => ⟨?le, ?eq, ?largest, fun hne => ?smallest⟩, by decide, by decide⟩
  case le => rw [← normValue_self hc, normValue_le_iff hc]
  case eq => rw [← normValue_self hc, normValue_inj hc]
  case largest => exact normValue_le_normValue (le_max_half x) (one_le_of_ne_zero hc) (by decide)
  case smallest =>
    have hx : x ≠ 0#16 := by
      rintro rfl
      exact hne (by simp [normValue])
    exact normValue_le_normValue (one_le_of_ne_zero hx) (le_max_half c) hc

/-- Settles O27: for one divisor, `Norm` is strictly increasing. -/
theorem normPreservesOrder : Obligations.NormPreservesOrder := fun x y _ hc =>
  ⟨normValue_lt_iff hc y x, normValue_inj hc x y⟩

/-! ### The comparison chain -/

theorem classify_red {m : Half} {h : Handle} (hg : h.g < h.r) (hb : h.b < h.r) (hm : m < h.rRaw) :
    classify m h = .red :=
  if_pos ⟨hg, hb, hm⟩

/-- The dominance of GREEN excludes the branch before it (R164). -/
theorem classify_green {m : Half} {h : Handle} (hr : h.r < h.g) (hb : h.b < h.g) (hm : m < h.gRaw) :
    classify m h = .green := by
  rw [classify, if_neg fun hred => BitVec.lt_asymm hr hred.1, if_pos ⟨hr, hb, hm⟩]

/-- The dominance of BLUE excludes the two branches before it (R164). -/
theorem classify_blue {m : Half} {h : Handle} (hr : h.r < h.b) (hg : h.g < h.b) (hm : 2#16 < h.bRaw) :
    classify m h = .blue := by
  rw [classify, if_neg fun hred => BitVec.lt_asymm hr hred.2.1, if_neg fun hgreen => BitVec.lt_asymm hg hgreen.2.1,
    if_pos ⟨hr, hg, hm⟩]

/-- All that the chain can answer (R160). -/
theorem classify_cases (m : Half) (h : Handle) :
    (classify m h = .red ∧ h.g < h.r ∧ h.b < h.r ∧ m < h.rRaw) ∨
    (classify m h = .green ∧ h.r < h.g ∧ h.b < h.g ∧ m < h.gRaw) ∨
    (classify m h = .blue ∧ h.r < h.b ∧ h.g < h.b ∧ 2#16 < h.bRaw) ∨ classify m h = .nothing := by
  unfold classify
  split_ifs with hred hgreen hblue
  · exact .inl ⟨rfl, hred⟩
  · exact .inr (.inl ⟨rfl, hgreen⟩)
  · exact .inr (.inr (.inl ⟨rfl, hblue⟩))
  · exact .inr (.inr (.inr rfl))

/-- Settles O30: a verdict was answered on its own branch, and no other branch stands in the way of a dominant
channel; on a tie no channel is dominant. -/
theorem verdictIndependentOfBranchOrder : Obligations.VerdictIndependentOfBranchOrder := by
  intro m h
  have hcases := classify_cases m h
  refine ⟨⟨fun hv => ?_, fun ⟨hg, hb, hm⟩ => classify_red hg hb hm⟩,
    ⟨fun hv => ?_, fun ⟨hr, hb, hm⟩ => classify_green hr hb hm⟩,
    ⟨fun hv => ?_, fun ⟨hr, hg, hm⟩ => classify_blue hr hg hm⟩, fun htie => ?tie⟩
  case tie =>
    rcases hcases with ⟨-, hg, hb, -⟩ | ⟨-, hr, hb, -⟩ | ⟨-, hr, hg, -⟩ | hnothing
    · bv_omega
    · bv_omega
    · bv_omega
    · exact hnothing
  all_goals simpa [hv] using hcases

/-- The chain reads six registers (R160): it never reads `C_RAW`. -/
theorem classify_congr {h h' : Handle} (m : Half) (hr : h.r = h'.r) (hg : h.g = h'.g) (hb : h.b = h'.b)
    (hrRaw : h.rRaw = h'.rRaw) (hgRaw : h.gRaw = h'.gRaw) (hbRaw : h.bRaw = h'.bRaw) :
    classify m h = classify m h' := by
  simp only [classify, hr, hg, hb, hrRaw, hgRaw, hbRaw]

/-- The chain on a normalized handle is the chain on its raw registers, NOTHING if `C_RAW` is 0 (R165). -/
theorem classify_normalizedHandle (m : Half) (h : Handle) : classify m (normalizedHandle h) =
    if h.cRaw = 0#16 then .nothing
    else if h.gRaw < h.rRaw ∧ h.bRaw < h.rRaw ∧ m < h.rRaw then .red
    else if h.rRaw < h.gRaw ∧ h.bRaw < h.gRaw ∧ m < h.gRaw then .green
    else if h.rRaw < h.bRaw ∧ h.gRaw < h.bRaw ∧ 2#16 < h.bRaw then .blue
    else .nothing := by
  by_cases hc : h.cRaw = 0#16
  · simp [classify, normalizedHandle, hc]
  · simp [classify, normalizedHandle, hc, normValue_lt_iff hc, Config.blueMin]

/-! ### `GETRGB` -/

/-- All that `GETRGB` does in `IDLE` (R150). -/
theorem exec_getrgb_idle {s : State} (hq : s.seq = .idle) : exec .getrgb s = .next { s with
    handle := normalizedHandle s.handle
    trace := s.trace ++ [.done 0x02#8 0x0000#16] } := by
  rw [exec_eq_accept, accept_idle hq]
  simp only [effect, normalizeRaw_eq]
  rfl

/-- Settles O24: the word 0x02 decodes to `GETRGB` with any operand, and `GETRGB` is accepted in `IDLE`. -/
theorem getrgbNormalizes : Obligations.GetrgbNormalizes := by
  intro s hq
  refine ⟨fun d rest hi => stepRunsDecodedCommand s 0x02#8 d .getrgb rest hq hi rfl, fun hc => ?_, fun hc => ?_⟩
  · rw [exec_getrgb_idle hq, normalizedHandle, if_pos hc]
  · rw [exec_getrgb_idle hq, normalizedHandle, if_neg hc]; rfl

/-- The normalized handle is a function of the raw registers (R156). -/
theorem normalizedHandle_congr {h h' : Handle} (hr : h.rRaw = h'.rRaw) (hg : h.gRaw = h'.gRaw)
    (hb : h.bRaw = h'.bRaw) (hc : h.cRaw = h'.cRaw) : normalizedHandle h = normalizedHandle h' := by
  simp only [normalizedHandle, hr, hg, hb, hc]

/-- Normalizing again changes nothing, as the raw registers are kept (R156). -/
theorem normalizedHandle_idem (h : Handle) : normalizedHandle (normalizedHandle h) = normalizedHandle h :=
  normalizedHandle_congr (normalizedHandle_raw h .red) (normalizedHandle_raw h .green) (normalizedHandle_raw h .blue)
    (normalizedHandle_raw h .clear)

/-- After `GETRGB` the handle is normalized and the block is idle still (R150). -/
theorem handle_of_exec_getrgb {s t : State} (hq : s.seq = .idle) (h : exec .getrgb s = .next t) :
    t.handle = normalizedHandle s.handle ∧ t.seq = .idle := by
  rw [exec_getrgb_idle hq] at h
  cases h
  exact ⟨rfl, hq⟩

/-- Settles O28: the handle is normalized once by each of the two, and a second time by the repetition. -/
theorem getrgbDependsOnRawOnly : Obligations.GetrgbDependsOnRawOnly := by
  intro s s' t t' u hq hq' hr hg hb hc ht ht' hu
  obtain ⟨hth, htq⟩ := handle_of_exec_getrgb hq ht
  obtain ⟨hth', -⟩ := handle_of_exec_getrgb hq' ht'
  obtain ⟨huh, -⟩ := handle_of_exec_getrgb htq hu
  rw [huh, hth, hth']
  exact ⟨normalizedHandle_congr hr hg hb hc, normalizedHandle_idem s.handle⟩

/-! ### `DETECT` -/

/-- All that `DETECT` does in `IDLE` (R160). -/
theorem exec_detect_idle {s : State} (hq : s.seq = .idle) : exec .detect s = .next { s with
    trace := s.trace ++ [.done 0x03#8 ((classify s.cfg.minRaw s.handle).code.setWidth 16)] } := by
  rw [exec_eq_accept, accept_idle hq]
  rfl

/-- The chain on numbers, with the codes of R88. -/
theorem classify_code (m : Half) (h : Handle) : (classify m h).code.setWidth 16 =
    if h.r.toNat > h.g.toNat ∧ h.r.toNat > h.b.toNat ∧ h.rRaw.toNat > m.toNat then 0#16
    else if h.g.toNat > h.r.toNat ∧ h.g.toNat > h.b.toNat ∧ h.gRaw.toNat > m.toNat then 1#16
    else if h.b.toNat > h.r.toNat ∧ h.b.toNat > h.g.toNat ∧ h.bRaw.toNat > 2 then 2#16
    else 3#16 := by
  simp only [classify, BitVec.lt_def, Config.blueMin, BitVec.reduceToNat]
  split_ifs <;> rfl

/-- Settles O29: the word 0x03 decodes to `DETECT` with any operand, and `DETECT` is accepted in `IDLE`. -/
theorem detectClassifies : Obligations.DetectClassifies := by
  intro s v hq
  constructor
  · exact fun d rest hi => stepRunsDecodedCommand s 0x03#8 d .detect rest hq hi rfl
  · rintro rfl
    rw [exec_detect_idle hq, classify_code]

/-- Settles O31: the events added are the one `Done`, whose verdict the chain makes of the registers it reads. -/
theorem detectIsPure : Obligations.DetectIsPure := by
  intro s s' w w' t t' hq hq' hm hr hg hb hrRaw hgRaw hbRaw ht ht' hw hw'
  rw [exec_detect_idle hq] at ht
  rw [exec_detect_idle hq'] at ht'
  cases ht
  cases ht'
  obtain rfl := List.append_cancel_left hw
  obtain rfl := List.append_cancel_left hw'
  refine ⟨?_, rfl, exec_detect_idle hq⟩
  rw [hm, classify_congr _ hr hg hb hrRaw hgRaw hbRaw]

/-- Settles O32: the handle is normalized, so the chain on it is the chain on its raw registers. -/
theorem consistentVerdictFromRaw : Obligations.ConsistentVerdictFromRaw := by
  intro s t u v hq ht hu hh hv
  have hnorm : u.handle = normalizedHandle u.handle := by
    rw [hh, (handle_of_exec_getrgb hq ht).1, normalizedHandle_idem]
  have hverdict : (classify u.cfg.minRaw u.handle).code.setWidth 16 = v := by
    rw [hv, hnorm, classify_normalizedHandle, ← hnorm]
    split_ifs <;> rfl
  rw [exec_detect_idle hu, hverdict]

end Sys2Proof.Machine
end

section
/-! PROOFS. O33 and O37: the handle loads, and all that writes a handle register. -/
namespace Sys2Proof.Machine

/-! ### `SETRAW` -/

/-- A handle load takes its operand from `cmd_data` (R80, R91). -/
theorem operandWord_handleLoadOf (n : Half) (ch : Channel) :
    (handleLoadOf n ch).takesOperand = true ∧ operandWord (handleLoadOf n ch) = n := by
  cases ch <;> exact ⟨rfl, rfl⟩

/-- The pair that decodes to a handle load is its word and its operand (R82). -/
theorem decode_eq_handleLoadOf_iff {c : Byte} {d n : Half} {ch : Channel} :
    decode c d = .ok (handleLoadOf n ch) ↔ opcode (handleLoadOf n ch) = c ∧ n = d := by
  obtain ⟨htakes, hword⟩ := operandWord_handleLoadOf n ch
  simp only [decode_eq_ok_iff, htakes, hword, forall_const]

/-- All that a handle load does in `IDLE` (R180 to R183). -/
theorem exec_handleLoadOf_idle (n : Half) (ch : Channel) {s : State} (hq : s.seq = .idle) :
    exec (handleLoadOf n ch) s = .next { s with
      handle := s.handle.setRaw n ch
      trace := s.trace ++ [.done (opcode (handleLoadOf n ch)) 0x0000#16] } := by
  rw [exec_eq_accept, accept_idle hq]
  cases ch <;> rfl

/-- Settles O33: each word with its operand decodes to the load of one channel, which is accepted in `IDLE`. -/
theorem setrawStores : Obligations.SetrawStores := by
  intro s n hq
  refine ⟨fun c i rest hrow hi => ?word, exec_handleLoadOf_idle n .red hq, exec_handleLoadOf_idle n .green hq,
    exec_handleLoadOf_idle n .blue hq, exec_handleLoadOf_idle n .clear hq⟩
  case word =>
    obtain ⟨ch, rfl, rfl⟩ : ∃ ch, c = opcode (handleLoadOf n ch) ∧ i = handleLoadOf n ch := by
      simp only [List.mem_cons, List.not_mem_nil, or_false, Prod.mk.injEq] at hrow
      rcases hrow with h | h | h | h
      exacts [⟨.red, h⟩, ⟨.green, h⟩, ⟨.blue, h⟩, ⟨.clear, h⟩]
    exact stepRunsDecodedCommand s _ n _ rest hq hi (decode_eq_handleLoadOf_iff.mpr ⟨rfl, rfl⟩)

/-! ### What writes a handle register -/

/-- Everything one delivered event can do to the handle (R184). -/
inductive LeavesHandle (s : State) : EnvEvent → Handle → Prop where
  | kept (e : EnvEvent) : LeavesHandle s e s.handle
  | reset (b : Bool) : LeavesHandle s (.reset b) Handle.reset
  | loaded (n : Half) (ch : Channel) (h : s.seq = .idle) :
    LeavesHandle s (.cmd (opcode (handleLoadOf n ch)) n) (s.handle.setRaw n ch)
  | normalized (d : Half) (h : s.seq = .idle) : LeavesHandle s (.cmd (opcode .getrgb) d) (normalizedHandle s.handle)
  | captured (h : s.seq = .rdWait) (hc : s.hidden.capf = true) :
    LeavesHandle s .dDone (s.handle.setRaw s.hidden.val s.hidden.ch)

/-- Of the commands, in the step that accepts them, the handle loads and `GETRGB` write the handle. -/
theorem effect_handle_cases (i : Instr) (s : State) :
    (effect i s).handle = s.handle ∨
    (∃ n ch, i = handleLoadOf n ch ∧ (effect i s).handle = s.handle.setRaw n ch) ∨
    (i = .getrgb ∧ (effect i s).handle = normalizedHandle s.handle) := by
  cases i with
  | setrawR n => exact .inr (.inl ⟨n, .red, rfl, rfl⟩)
  | setrawG n => exact .inr (.inl ⟨n, .green, rfl, rfl⟩)
  | setrawB n => exact .inr (.inl ⟨n, .blue, rfl, rfl⟩)
  | setrawC n => exact .inr (.inl ⟨n, .clear, rfl, rfl⟩)
  | getrgb => exact .inr (.inr ⟨rfl, normalizeRaw_handle s⟩)
  | init | detect | getrawR | getrawG | getrawB | getrawC | getrawcR | getrawcG | getrawcB | getrawcC =>
    exact .inl rfl

/-- No answer but the end of a raw read, no illegal word and no command offered while busy writes the handle. -/
theorem Handles.leavesHandle {s t : State} {e : EnvEvent} (h : Handles s e t) : LeavesHandle s e t.handle := by
  cases h with
  | command c d i hq hd =>
    rcases effect_handle_cases i s with he | ⟨n, ch, rfl, he⟩ | ⟨rfl, he⟩ <;> rw [he]
    · exact .kept _
    · obtain ⟨rfl, rfl⟩ := decode_eq_handleLoadOf_iff.mp hd
      exact .loaded n ch hq
    · obtain rfl := opcode_of_decode hd
      exact .normalized d hq
  | rdWait hq =>
    rw [readEnd_eq]
    by_cases hc : s.hidden.capf = true
    · simpa [hc] using LeavesHandle.captured hq hc
    · simpa [hc] using LeavesHandle.kept (s := s) .dDone
  | reset b => exact .reset b
  | init1 b =>
    by_cases hb : b = s.cfg.expectedId
    · rw [initStep1_match hb]; exact .kept _
    · rw [initStep1_mismatch hb]; exact .kept _
  | init2 | init4 | init5 | init7 =>
    simpa [initStep2, initStep4, initStep5, initStep7] using LeavesHandle.kept (s := s) _
  | busy | illegal | init3 | init6 | init8 | rdLo | rdHi => exact .kept _

/-- `GETRGB` leaves a handle that differs in the normalized registers only (R184). -/
theorem normalizedHandle_eq_with_norm (h : Handle) : normalizedHandle h = { h with
    r := (normalizedHandle h).r
    g := (normalizedHandle h).g
    b := (normalizedHandle h).b } := by
  unfold normalizedHandle; split <;> rfl

/-- Settles O37: a step does nothing or handles one event, which leaves the handle in one of the ways listed. -/
theorem handleChangesOnlyWhereListed : Obligations.HandleChangesOnlyWhereListed := by
  intro s t hstep
  rcases step_cases hstep with ⟨-, rfl⟩ | ⟨e, rest, hi, hh⟩
  · exact .inl rfl
  · have hleaves := hh.leavesHandle
    generalize t.handle = h at hleaves ⊢
    cases hleaves with
    | kept => exact .inl rfl
    | reset b => exact .inr (.inl ⟨b, rest, hi, rfl⟩)
    | loaded n ch hq =>
      refine .inr (.inr (.inl ⟨hq, _, n, rest, hi, ?_⟩))
      cases ch <;> simp [handleLoadOf, opcode, Handle.setRaw]
    | normalized d hq =>
      refine .inr (.inr (.inl ⟨hq, _, d, rest, hi, ?_⟩))
      exact .inr (.inr (.inr (.inr ⟨rfl, normalizedHandle_eq_with_norm s.handle⟩)))
    | captured hq hc =>
      refine .inr (.inr (.inr ⟨hq, hc, rest, hi, ?_⟩))
      cases hch : s.hidden.ch <;> simp [Handle.setRaw]

end Sys2Proof.Machine
end

section
/-! PROOFS. O6, O7, O8 and O45: deliveries refused, commands stuck, and commands ended by a fair environment. -/
namespace Sys2Proof.Machine

/-! ### A step is taken or refused -/

theorem exists_step_of_mayDeliver {s : State} {e : EnvEvent} {rest : List EnvEvent} (hi : s.inbox = e :: rest)
    (hmay : s.mayDeliver e = true) : ∃ t, step s = .next t := by
  obtain ⟨t, ht⟩ := exists_handles_of_mayDeliver (s := { s with inbox := rest }) hmay
  exact ⟨t, (step_next_iff hi).mpr ht⟩

theorem step_of_not_mayDeliver {s : State} {e : EnvEvent} {rest : List EnvEvent} (hi : s.inbox = e :: rest)
    (hmay : s.mayDeliver e = false) : step s = .refused (refusalOf s e) :=
  (step_cons hi).trans (deliver_of_not_mayDeliver (s := { s with inbox := rest }) hmay)

/-- Settles O8: an event that may not be delivered and is no reset is an answer. -/
theorem unsolicitedResponseIsRefused : Obligations.UnsolicitedResponseIsRefused := by
  intro s e rest hi hmay hr
  have hcmd : ∀ c d, e ≠ .cmd c d := by rintro c d rfl; cases hmay
  have hans : e.isAnswer = true := (isAnswer_iff e).mpr ⟨hcmd, hr⟩
  rw [step_of_not_mayDeliver hi hmay, refusalOf_answer hans]

/-- Settles O7: with nothing delivered a step answers its own state; otherwise it depends on the first delivery. -/
theorem stepRefusesExactlyForbiddenDeliveries : Obligations.StepRefusesExactlyForbiddenDeliveries := by
  intro s
  cases hi : s.inbox with
  | nil => simp [step_nil hi]
  | cons e rest =>
    cases hmay : s.mayDeliver e with
    | true =>
      obtain ⟨t, ht⟩ := exists_step_of_mayDeliver hi hmay
      simp [ht, hmay]
    | false => simp [step_of_not_mayDeliver hi hmay, hmay]

/-! ### Stuck for ever -/

/-- With nothing delivered no number of steps changes anything. -/
theorem run_nil {s : State} (hi : s.inbox = []) (k : Nat) : run k s = .next s := by
  induction k with
  | zero => rfl
  | succ k ih => exact (run_succ k (step_nil hi)).trans ih

/-- `BUSY` is bit 7 of `STATUS` (R26). -/
theorem status_busy_iff (s : State) : s.status.getLsbD 7 = true ↔ s.seq ≠ .idle := by
  obtain ⟨-, -, -, -, -, -, -, hbusy⟩ := statusBitsFollowTheTable.1 s
  exact hbusy

/-- Settles O6: the state stays as it is. -/
theorem stuckForEver : Obligations.StuckForEver := by
  rintro s ⟨hq, hi⟩ k
  exact ⟨s, run_nil hi k, rfl, (status_busy_iff s).mpr hq, rfl, hq, hi⟩

/-! ### A fair environment -/

/-- After `k` moments the command in progress in `s` goes on in `t`. -/
def BusyAt (env : Environment) (s : State) (k : Nat) (t : State) : Prop :=
  runUnder env s k = .next t ∧ t.seq ≠ .idle ∧ t.doneCount = s.doneCount

/-- After `k` moments the command in progress in `s` has ended in `t`. -/
def EndedAt (env : Environment) (s : State) (k : Nat) (t : State) : Prop :=
  runUnder env s k = .next t ∧ t.seq = .idle ∧ t.doneCount = s.doneCount + 1

/-- From a moment to the next: no more answers to come, and fewer if the environment delivered one. -/
def FewerAnswersLeft (env : Environment) (k : Nat) (t u : State) : Prop :=
  answersLeft u.seq ≤ answersLeft t.seq ∧
    ∀ e, env k = some e → e.isAnswer = true → answersLeft u.seq < answersLeft t.seq

/-- A busy block under an environment that keeps the rules (R206): at each moment its command ends or goes on. -/
theorem BusyAt.next {env : Environment} {s t : State} {k : Nat} (hmay : DeliversWhatItMay env s)
    (h : BusyAt env s k t) :
    ∃ u, EndedAt env s (k + 1) u ∨ (BusyAt env s (k + 1) u ∧ FewerAnswersLeft env k t u) := by
  obtain ⟨hrun, hq, hcount⟩ := h
  cases he : env k with
  | none => exact ⟨t, .inr ⟨⟨runUnder_silent hrun he, hq, hcount⟩, le_rfl, by simp [he]⟩⟩
  | some e =>
    obtain ⟨hmaye, hr⟩ := hmay k t e hrun he
    obtain ⟨u, hh⟩ := exists_handles_of_mayDeliver (s := { t with inbox := [] }) hmaye
    have hrun' : runUnder env s (k + 1) = .next u := (runUnder_delivery hrun he).trans ((step_next_iff rfl).mpr hh)
    refine ⟨u, ?_⟩
    cases e with
    | cmd c d =>
      cases hh with
      | busy => exact .inr ⟨⟨hrun', hq, hcount⟩, le_rfl, by simp [he, EnvEvent.isAnswer]⟩
      | command _ _ _ hidle | illegal _ _ _ hidle => exact absurd hidle hq
    | reset b => exact absurd rfl (hr b)
    | tRspByte | tRspStatus | dDone =>
      obtain ⟨hidle, -, hdone⟩ | ⟨hbusy, hless, hdone⟩ := hh.ends_or_goesOn rfl
      · exact .inl ⟨hrun', hidle, hcount ▸ hdone⟩
      · exact .inr ⟨⟨hrun', hbusy, hdone.trans hcount⟩, hless.le, fun _ _ _ => hless⟩

/-- A block still busy at the next moment has come no further from its end. -/
theorem BusyAt.fewerAnswersLeft {env : Environment} {s t u : State} {k : Nat} (hmay : DeliversWhatItMay env s)
    (h : BusyAt env s k t) (h' : BusyAt env s (k + 1) u) : FewerAnswersLeft env k t u := by
  obtain ⟨hrun, hq, -⟩ := h'
  obtain ⟨v, ⟨hrun', hidle, -⟩ | ⟨⟨hrun', -, -⟩, hfewer⟩⟩ := h.next hmay
  · cases hrun.symm.trans hrun'; exact absurd hidle hq
  · cases hrun.symm.trans hrun'; exact hfewer

/-- Fairness (R205): whatever a busy block awaits is answered, now or later. -/
theorem BusyAt.exists_answer {env : Environment} {s t : State} {k : Nat} (hdelay : DelaysComplete env s)
    (htransport : TransportAnswers env s) (h : BusyAt env s k t) :
    ∃ j e, k ≤ j ∧ env j = some e ∧ e.isAnswer = true := by
  obtain ⟨hrun, hq, -⟩ := h
  obtain ⟨hbyte, hstatus⟩ := htransport k t hrun
  cases hs : t.seq with
  | idle => exact absurd hs hq
  | init1 | rdLo | rdHi =>
    obtain ⟨j, b, hj, he⟩ := hbyte (by simp [hs])
    exact ⟨j, _, hj, he, rfl⟩
  | init2 | init4 | init5 | init7 =>
    obtain ⟨j, st, hj, he⟩ := hstatus (by simp [hs])
    exact ⟨j, _, hj, he, rfl⟩
  | init3 | init6 | init8 | rdWait =>
    obtain ⟨j, hj, he⟩ := hdelay k t hrun (by simp [hs])
    exact ⟨j, _, hj, he, rfl⟩

/-- No command is busy for ever under a fair environment: the answers left never grow, so from some moment on they
stay as many; but an answer comes after that moment, and leaves fewer. -/
theorem exists_not_busyAt {env : Environment} {s : State} (hdelay : DelaysComplete env s)
    (htransport : TransportAnswers env s) (hmay : DeliversWhatItMay env s) : ∃ k, ¬ ∃ t, BusyAt env s k t := by
  by_contra! hbusy
  choose t ht using hbusy
  have hfewer (k : Nat) : FewerAnswersLeft env k (t k) (t (k + 1)) := (ht k).fewerAnswersLeft hmay (ht (k + 1))
  have hanti : Antitone fun k => answersLeft (t k).seq := antitone_nat_of_succ_le fun k => (hfewer k).1
  obtain ⟨m, hconst⟩ := WellFoundedLT.antitone_chain_condition hanti
  obtain ⟨j, e, hj, he, hans⟩ := (ht m).exists_answer hdelay htransport
  have hless : answersLeft (t (j + 1)).seq < answersLeft (t j).seq := (hfewer j).2 e he hans
  have hsame : answersLeft (t j).seq = answersLeft (t (j + 1)).seq :=
    (hconst j hj).symm.trans (hconst (j + 1) (by omega))
  omega

/-- Settles O45: the command ends at the first moment at which it is not busy. -/
theorem fairEnvironmentEndsTheCommand : Obligations.FairEnvironmentEndsTheCommand := by
  classical
  intro env s hq hdelay htransport hmay
  have hex := exists_not_busyAt hdelay htransport hmay
  have hbefore (j : Nat) (hj : j < Nat.find hex) : ∃ u, BusyAt env s j u := not_not.mp (Nat.find_min hex hj)
  cases hk : Nat.find hex with
  | zero => exact absurd ⟨s, rfl, hq, rfl⟩ (hk ▸ Nat.find_spec hex)
  | succ k =>
    obtain ⟨t, ht⟩ := hbefore k (by omega)
    obtain ⟨u, ⟨hrun, hidle, hdone⟩ | ⟨hbusy, -⟩⟩ := ht.next hmay
    · exact ⟨k + 1, u, hrun, hidle, hdone, fun j hj => hbefore j (hk ▸ hj)⟩
    · exact absurd ⟨u, hbusy⟩ (hk ▸ Nat.find_spec hex)

end Sys2Proof.Machine
end

section
/-! PROOFS. O46 and O47: where the run of a program stands, and that it comes to its end. -/
namespace Sys2Proof.Machine

/-! ### Where a run stands -/

/-- `SEQ` names a request in every state but `IDLE` (R24, R31). -/
theorem issued_eq_none_iff (s : State) : s.issued = none ↔ s.seq = .idle := by
  cases h : s.seq <;> simp [State.issued, h]

/-- What is so wherever the run of `p` from `s` stands: the parameters are the same, the trace has only grown, the
request outstanding is the one `SEQ` names, and every command but the one in progress has emitted its `Done`. -/
structure StandsIn (p : Program) (s t : State) : Prop where
  cfg : t.cfg = s.cfg
  trace : s.trace <+: t.trace
  request : RequestMatchesSeq t
  dones : t.doneCount + (if t.seq = .idle then 0 else 1) = s.doneCount + p.length

/-- An event other than a reset keeps all of it, if all commands issued with it, `q`, but one had emitted their `Done`
before it: the `Done` of that one comes when `IDLE` does. -/
theorem StandsIn.handles {p q : Program} {s t u : State} {e : EnvEvent} (h : StandsIn p s t) (hh : Handles t e u)
    (hr : ∀ b, e ≠ .reset b) (howed : t.doneCount + 1 = s.doneCount + q.length) : StandsIn q s u where
  cfg := hh.cfg_inbox.1.trans h.cfg
  trace := by
    obtain ⟨new, hnew, -⟩ := hh.emits
    exact h.trace.trans ⟨new, hnew.symm⟩
  request := hh.requestMatchesSeq h.request
  dones := by
    obtain ⟨hidle, hdone⟩ | ⟨hbusy, hdone⟩ := hh.done_iff_idle hr
    · rw [if_pos hidle]; exact hdone.trans howed
    · rw [if_neg hbusy, hdone]; exact howed

theorem StandsIn.withInbox {p : Program} {s t : State} (h : StandsIn p s t) (l : List EnvEvent) :
    StandsIn p s { t with inbox := l } :=
  ⟨h.cfg, h.trace, h.request, h.dones⟩

/-- By induction on the run: a command is issued when no `Done` is owed, and then one is until `IDLE`. -/
theorem Running.standsIn {p : Program} {s t : State} (h : Running p s t) : StandsIn p s t := by
  induction h with
  | start s hidle hnone =>
    exact ⟨rfl, ⟨[], List.append_nil _⟩, hnone.trans ((issued_eq_none_iff s).mpr hidle).symm, by simp [hidle]⟩
  | issue c d rest _ hidle hi hstep ih =>
    refine (ih.withInbox rest).handles ((step_next_iff hi).mp hstep) nofun ?_
    have hdones := ih.dones
    rw [if_pos hidle] at hdones
    rw [List.length_append, ← Nat.add_assoc]
    exact congrArg (· + 1) hdones
  | answer e rest _ hbusy hi hans hstep ih =>
    refine (ih.withInbox rest).handles ((step_next_iff hi).mp hstep) ((isAnswer_iff e).mp hans).2 ?_
    have hdones := ih.dones
    rwa [if_neg hbusy] at hdones

/-- As many `Done`s as commands means that none is owed (R238). -/
theorem Running.runOver_iff {p : Program} {s t : State} (h : Running p s t) : RunOver p s t ↔ t.seq = .idle := by
  have hdones := h.standsIn.dones
  constructor
  · rintro ⟨-, hover⟩
    by_contra hbusy
    rw [if_neg hbusy] at hdones
    omega
  · intro hidle
    rw [if_pos hidle] at hdones
    exact ⟨h, hdones⟩

/-- What a run that is over has emitted holds one `Done` for each command. -/
theorem RunOver.exists_emitted {p : Program} {s t : State} (h : RunOver p s t) :
    ∃ w, t.trace = s.trace ++ w ∧ w.countP BlockEvent.isDone = p.length := by
  obtain ⟨hrun, hdones⟩ := h
  obtain ⟨w, hw⟩ := hrun.standsIn.trace
  refine ⟨w, hw.symm, ?_⟩
  simp only [State.doneCount, ← hw, List.countP_append] at hdones
  omega

/-- Settles O46: the run is over when no `Done` is owed, which is in `IDLE`; a stuck run stays where it is. -/
theorem runIsOverExactlyInIdle : Obligations.RunIsOverExactlyInIdle := by
  intro p s t h
  obtain ⟨-, -, hrequest, hdones⟩ := h.standsIn
  have hnone : t.outstanding = none ↔ t.seq = .idle := hrequest ▸ issued_eq_none_iff t
  have hnotOver (hbusy : t.seq ≠ .idle) : ¬ RunOver p s t := mt h.runOver_iff.mp hbusy
  refine ⟨h.runOver_iff, fun hover => ?ended, fun hbusy => ?inProgress, ?stuck⟩
  case ended =>
    obtain ⟨w, htrace, hcount⟩ := hover.exists_emitted
    exact ⟨hnone.mpr (h.runOver_iff.mp hover), ⟨hover, rfl⟩, w, ⟨htrace, hover, rfl⟩, hcount⟩
  case inProgress =>
    rw [if_neg hbusy] at hdones
    exact ⟨mt hnone.mp hbusy, hdones, fun f ⟨hover, _⟩ => hnotOver hbusy hover⟩
  case stuck =>
    rintro ⟨hbusy, hi⟩ k
    exact ⟨t, run_nil hi k, hnotOver hbusy⟩

/-! ### A program followed to its end -/

/-- A command's effect leads from `IDLE` to the entry state of its word (R25). -/
theorem effect_seq (i : Instr) {s : State} (hq : s.seq = .idle) : (effect i s).seq = entryState (opcode i) := by
  cases i with
  | init | getrawR | getrawG | getrawB | getrawC | getrawcR | getrawcG | getrawcB | getrawcC => rfl
  | getrgb | detect | setrawR | setrawG | setrawB | setrawC => simp [effect, hq, opcode, entryState]

/-- An illegal word begins no sequence (R86). -/
theorem entryState_of_error {c : Byte} {d : Half} {x : DecodeError} (hd : decode c d = .error x) :
    entryState c = .idle := by
  have hillegal : ¬ ∃ i, decode c d = .ok i := by simp [hd]
  rw [(illegalWordsAreExactlyTheListed c d).1] at hillegal
  simp_all [entryState]

/-- A command taken in `IDLE` leads to the entry state of its word, legal or not (R25). -/
theorem Handles.seq_eq_entryState {s t : State} {c : Byte} {d : Half} (h : Handles s (.cmd c d) t)
    (hq : s.seq = .idle) : t.seq = entryState c := by
  cases h with
  | busy _ _ hbusy => exact absurd hq hbusy
  | command _ _ i _ hd => rw [effect_seq i hq, opcode_of_decode hd]
  | illegal _ _ x _ hd => rw [entryState_of_error hd, illegalCommand_seq, hq]

/-- With no more answers to come the walk is at its end. -/
theorem answersToEnd_nil_iff (id : Byte) (q : Seq) : answersToEnd id q [] = true ↔ q = .idle := by
  cases q <;> simp [answersToEnd]

/-- A run delivered exactly the answers it awaits goes on to `IDLE`, by induction on the answers. -/
theorem Running.exists_idle_of_answers {p : Program} {s t : State} {answers rest : List EnvEvent} (h : Running p s t)
    (hans : answersToEnd s.cfg.expectedId t.seq answers = true) (hi : t.inbox = answers ++ rest) :
    ∃ u, run answers.length t = .next u ∧ u.inbox = rest ∧ Running p s u ∧ u.seq = .idle := by
  induction answers generalizing t with
  | nil => exact ⟨t, rfl, hi, h, (answersToEnd_nil_iff _ _).mp hans⟩
  | cons e l ih =>
    obtain ⟨he, hmay⟩ := answersToEnd_mayDeliver hans
    obtain ⟨u, hh⟩ := exists_handles_of_mayDeliver (s := { t with inbox := l ++ rest }) hmay
    have hstep : step t = .next u := (step_next_iff hi).mpr hh
    have hrun : Running p s u := .answer e (l ++ rest) h (hh.busy_of_answer he) hi he hstep
    have hcfg : t.cfg = s.cfg := h.standsIn.cfg
    have htail : answersToEnd t.cfg.expectedId u.seq l = true := hh.answersToEnd_tail he (hcfg ▸ hans)
    obtain ⟨v, hv, hend⟩ := ih hrun (hcfg ▸ htail) hh.cfg_inbox.2
    exact ⟨v, (run_succ _ hstep).trans hv, hend⟩

/-- A run in `IDLE` takes the next command of its program, and with the answers it awaits is in `IDLE` again. -/
theorem Running.exists_idle_of_command {p : Program} {s t : State} {c : Byte} {d : Half} {answers rest : List EnvEvent}
    (h : Running p s t) (hq : t.seq = .idle) (hans : answersToEnd s.cfg.expectedId (entryState c) answers = true)
    (hi : t.inbox = .cmd c d :: answers ++ rest) :
    ∃ u, run (answers.length + 1) t = .next u ∧ u.inbox = rest ∧ Running (p ++ [(c, d)]) s u ∧ u.seq = .idle := by
  obtain ⟨u, hh⟩ := exists_handles_of_mayDeliver (s := { t with inbox := answers ++ rest }) (e := .cmd c d) rfl
  have hstep : step t = .next u := (step_next_iff hi).mpr hh
  have hrun : Running (p ++ [(c, d)]) s u := .issue c d (answers ++ rest) h hq hi hstep
  rw [← hh.seq_eq_entryState hq] at hans
  obtain ⟨v, hv, hend⟩ := hrun.exists_idle_of_answers hans hh.cfg_inbox.2
  exact ⟨v, (run_succ _ hstep).trans hv, hend⟩

/-- The deliveries of a script: each command, then its answers. -/
def scriptDeliveries (script : List ((Byte × Half) × List EnvEvent)) : List EnvEvent :=
  script.flatMap fun x => .cmd x.1.1 x.1.2 :: x.2

theorem scriptDeliveries_cons (c : Byte) (d : Half) (answers : List EnvEvent)
    (script : List ((Byte × Half) × List EnvEvent)) :
    scriptDeliveries (((c, d), answers) :: script) = .cmd c d :: answers ++ scriptDeliveries script := rfl

/-- A run in `IDLE` goes on through a whole script, by induction on its commands. -/
theorem Running.exists_idle_of_script {p : Program} {s t : State} {script : List ((Byte × Half) × List EnvEvent)}
    {rest : List EnvEvent} (h : Running p s t) (hq : t.seq = .idle)
    (hans : ∀ x ∈ script, answersToEnd s.cfg.expectedId (entryState x.1.1) x.2 = true)
    (hi : t.inbox = scriptDeliveries script ++ rest) :
    ∃ u, run (scriptDeliveries script).length t = .next u ∧ u.inbox = rest ∧
      Running (p ++ script.map Prod.fst) s u ∧ u.seq = .idle := by
  induction script generalizing p t with
  | nil => exact ⟨t, rfl, hi, by simpa using h, hq⟩
  | cons x script ih =>
    obtain ⟨⟨c, d⟩, answers⟩ := x
    obtain ⟨hhead, htail⟩ := List.forall_mem_cons.mp hans
    rw [scriptDeliveries_cons, List.append_assoc] at hi
    obtain ⟨u, hu, hinbox, hrun, hidle⟩ := h.exists_idle_of_command hq hhead hi
    obtain ⟨v, hv, hrest, hrun', hidle'⟩ := ih hrun hidle htail hinbox
    refine ⟨v, ?_, hrest, by simpa using hrun', hidle'⟩
    rw [scriptDeliveries_cons, List.length_append, List.length_cons, run_add _ _ hu, hv]

/-- Settles O47: the run of the program begins where nothing is in progress, and is over where it comes to `IDLE`. -/
theorem programRunsToItsEnd : Obligations.ProgramRunsToItsEnd := by
  intro s script rest hq hnone hans hi
  obtain ⟨t, hrun, hrest, hp, hidle⟩ := (Running.start s hq hnone).exists_idle_of_script hq hans hi
  exact ⟨t, hrun, hrest, hp.runOver_iff.mpr hidle⟩

end Sys2Proof.Machine
end

section
/-! PROOFS. O1 and O2: reset. -/
namespace Sys2Proof.Machine

/-- `STATUS` is 0x00 after reset (R34). -/
@[simp] theorem resetBlock_status (s : State) : (resetBlock s).status = 0x00#8 := by
  simp [State.status, State.busy, Flags.reset, flagBit]

/-- A reset that leaves no request outstanding in its collaborator is handled (R220, R221). -/
theorem step_reset {s : State} {collaborators : Bool} {rest : List EnvEvent}
    (hi : s.inbox = .reset collaborators :: rest) (h : s.outstanding = none ∨ collaborators = true) :
    step s = .next (resetBlock { s with inbox := rest }) :=
  (step_next_iff hi).mpr (.reset collaborators h)

/-- The reason a reset is refused for names the request it would leave outstanding. -/
theorem refusalOf_reset {s : State} {q : Request} (hq : s.outstanding = some q) (collaborators : Bool) :
    refusalOf s (.reset collaborators) = .resetLeavesRequestOutstanding q := by
  simp [refusalOf, hq]

/-- Settles O1: the state after a reset event is idle, so the command delivered next is accepted there. -/
theorem resetPutsEveryPieceAtItsValue : Obligations.ResetPutsEveryPieceAtItsValue := by
  refine ⟨⟨rfl, rfl, rfl, rfl⟩, fun s collaborators rest hi h => ?_⟩
  refine ⟨_, step_reset hi h, rfl, resetBlock_status _, rfl, rfl, rfl, rfl, rfl, fun c d i rest' hrest hd => ?_⟩
  exact stepRunsDecodedCommand (resetBlock { s with inbox := rest }) c d i rest' rfl hrest hd

/-- Settles O2: with a request outstanding a reset may be delivered only with the collaborators'. -/
theorem resetMidCommandNeedsCollaborators : Obligations.ResetMidCommandNeedsCollaborators := by
  intro s q rest hq
  constructor
  · intro hi
    have hmay : s.mayDeliver (.reset false) = false := by simp [State.mayDeliver, hq]
    rw [step_of_not_mayDeliver hi hmay, refusalOf_reset hq]
  · intro hi
    exact ⟨_, step_reset hi (.inr rfl), rfl, rfl, rfl⟩

end Sys2Proof.Machine
end
